-- ==== Sys2Proof/Word.lean ====
section
/-! DEFINITION. The plain data types every other file uses: bytes, command words and decimal digits. -/

namespace Sys2Proof

/-- A character or a byte of a command word: an 8-bit value (R8, R11). -/
abbrev Byte := BitVec 8

/-- The value on the port `cmd_word`: 176 bits (R26, R50). -/
abbrev CmdWord := BitVec 176

/-- A decimal digit, 0 to 9 (R8).  It is the index domain of every lookup table (R31). -/
abbrev Digit := Fin 10

/-- A sequence of modules or of table-entry bits, leftmost first: `true` is 1, a bar, and
`false` is 0, a space (R20, R33). -/
abbrev BitSeq := List Bool

end Sys2Proof
end

