-- ==== Sys2Proof/Syntax.lean ====
section
/-! DEFINITION. The commands of EANCORE command set v1: one constructor for each row of
`spec/opcode_table.json` (R52). -/

namespace Sys2Proof

/-- The operand fields that every command word carries (R11, R50).  A command that does not use a
field ignores it (R51); the field is kept here so that decoding loses no bit. -/
structure Operands where
  /-- `LEN`, the length of the string operand in characters. -/
  len : BitVec 8
  /-- `DATA`, the unsigned integer operand. -/
  data : BitVec 32
  /-- `CHARS[0..15]`, the first (leftmost) character at index 0. -/
  chars : Vector Byte 16
  deriving DecidableEq, Repr

/-- A command.  A row of the reserved space that covers several opcodes keeps the opcode. -/
inductive Instr where
  /-- `NOP`, opcode `0x00` (R120). -/
  | nop (o : Operands)
  /-- `PARSE`, opcode `0x01` (R77). -/
  | parse (o : Operands)
  /-- `CHKDIG`, opcode `0x02` (R78). -/
  | chkdig (o : Operands)
  /-- `ENCODE`, opcode `0x03` (R109). -/
  | encode (o : Operands)
  /-- `SHIFT`, opcode `0x04` (R110). -/
  | shift (o : Operands)
  /-- `ICHK5`, opcode `0x05` (R94). -/
  | ichk5 (o : Operands)
  /-- `ICHK4`, opcode `0x06` (R95). -/
  | ichk4 (o : Operands)
  /-- `EMBED`, opcode `0x07` (R96). -/
  | embed (o : Operands)
  /-- `CLEAR`, opcode `0x08` (R121). -/
  | clear (o : Operands)
  /-- Reserved opcode `0x09` (R122). -/
  | reserved0909 (o : Operands)
  /-- Reserved opcodes `0x0A` to `0x0B` (R122). -/
  | reserved0A0B (op : Byte) (o : Operands)
  /-- Reserved opcodes `0x0C` to `0x0F` (R122). -/
  | reserved0C0F (op : Byte) (o : Operands)
  /-- Reserved opcodes `0x10` to `0x1F` (R122). -/
  | reserved101F (op : Byte) (o : Operands)
  /-- Reserved opcodes `0x20` to `0x3F` (R122). -/
  | reserved203F (op : Byte) (o : Operands)
  /-- Reserved opcodes `0x40` to `0x7F` (R122). -/
  | reserved407F (op : Byte) (o : Operands)
  /-- Reserved opcodes `0x80` to `0xFF` (R122). -/
  | reserved80FF (op : Byte) (o : Operands)
  deriving DecidableEq, Repr

end Sys2Proof
end

