-- ==== Sys2Proof/WellFormed.lean ====
section
/-! DEFINITION. Which terms of `Instr` stand for a command word: a reserved row's opcode lies in
the row's range.  Operand fields carry no condition, since every value is accepted (R51, R53). -/

namespace Sys2Proof

/-- The opcode lies in the range, bounds included. -/
def opcodeIn (lo hi op : Byte) : Bool := lo.toNat ≤ op.toNat && op.toNat ≤ hi.toNat

/-- An instruction that some command word encodes (R52). -/
def Instr.wellFormed : Instr → Bool
  | .nop _ => true
  | .parse _ => true
  | .chkdig _ => true
  | .encode _ => true
  | .shift _ => true
  | .ichk5 _ => true
  | .ichk4 _ => true
  | .embed _ => true
  | .clear _ => true
  | .reserved0909 _ => true
  | .reserved0A0B op _ => opcodeIn 0x0A 0x0B op
  | .reserved0C0F op _ => opcodeIn 0x0C 0x0F op
  | .reserved101F op _ => opcodeIn 0x10 0x1F op
  | .reserved203F op _ => opcodeIn 0x20 0x3F op
  | .reserved407F op _ => opcodeIn 0x40 0x7F op
  | .reserved80FF op _ => opcodeIn 0x80 0xFF op

end Sys2Proof
end

