-- ==== Sys2Proof/Decode.lean ====
section
/-! DEFINITION. The command decoder, total on command words and on byte strings, and after it the
encoder, both written from R50 and R52 and from `spec/opcode_table.json`. -/

namespace Sys2Proof

/-- One row of `spec/opcode_table.json`: the row's commands are those with `op & mask = pattern`. -/
structure OpcodeRow where
  mnemonic : String
  pattern : Byte
  mask : Byte
  deriving DecidableEq, Repr

/-- The opcode belongs to the row. -/
def OpcodeRow.admits (r : OpcodeRow) (op : Byte) : Bool := op &&& r.mask == r.pattern

/-- The opcode table (R52).  `Instr` has one constructor for each row, in this order. -/
def opcodeTable : List OpcodeRow :=
  [⟨"NOP", 0x00, 0xFF⟩, ⟨"PARSE", 0x01, 0xFF⟩, ⟨"CHKDIG", 0x02, 0xFF⟩, ⟨"ENCODE", 0x03, 0xFF⟩,
   ⟨"SHIFT", 0x04, 0xFF⟩, ⟨"ICHK5", 0x05, 0xFF⟩, ⟨"ICHK4", 0x06, 0xFF⟩, ⟨"EMBED", 0x07, 0xFF⟩,
   ⟨"CLEAR", 0x08, 0xFF⟩] ++
  [⟨"RESERVED_09_09", 0x09, 0xFF⟩, ⟨"RESERVED_0A_0B", 0x0A, 0xFE⟩, ⟨"RESERVED_0C_0F", 0x0C, 0xFC⟩,
   ⟨"RESERVED_10_1F", 0x10, 0xF0⟩, ⟨"RESERVED_20_3F", 0x20, 0xE0⟩, ⟨"RESERVED_40_7F", 0x40, 0xC0⟩,
   ⟨"RESERVED_80_FF", 0x80, 0x80⟩]

/-! ### Fields of a command word -/

/-- Byte `k` of a command word is `cmd_word[8*k+7 : 8*k]` (R50). -/
def byteOf (w : CmdWord) (k : Nat) : Byte := w.extractLsb' (8 * k) 8

/-- `OP`, byte 0 (R50). -/
def opField (w : CmdWord) : Byte := byteOf w 0

/-- `LEN`, byte 1 (R50). -/
def lenField (w : CmdWord) : BitVec 8 := byteOf w 1

/-- `DATA`, bytes 2 to 5, the least significant byte in byte 2: `cmd_word[47:16]` (R50). -/
def dataField (w : CmdWord) : BitVec 32 := w.extractLsb' 16 32

/-- `CHARS[i]`, byte `6 + i` (R50). -/
def charsField (w : CmdWord) : Vector Byte 16 :=
  #v[byteOf w 6, byteOf w 7, byteOf w 8, byteOf w 9, byteOf w 10, byteOf w 11, byteOf w 12,
     byteOf w 13, byteOf w 14, byteOf w 15, byteOf w 16, byteOf w 17, byteOf w 18, byteOf w 19,
     byteOf w 20, byteOf w 21]

/-- The operand fields of a command word (R11, R50). -/
def operandsField (w : CmdWord) : Operands :=
  { len := lenField w, data := dataField w, chars := charsField w }

/-! ### The decoder -/

/-- The command of an opcode: the rows of the opcode table in turn, each by its match and mask
(R52).  The last row is what is left, the opcodes with bit 7 set. -/
def instrOf (op : Byte) (o : Operands) : Instr :=
  if op &&& 0xFF = 0x00 then .nop o
  else if op &&& 0xFF = 0x01 then .parse o
  else if op &&& 0xFF = 0x02 then .chkdig o
  else if op &&& 0xFF = 0x03 then .encode o
  else if op &&& 0xFF = 0x04 then .shift o
  else if op &&& 0xFF = 0x05 then .ichk5 o
  else if op &&& 0xFF = 0x06 then .ichk4 o
  else if op &&& 0xFF = 0x07 then .embed o
  else if op &&& 0xFF = 0x08 then .clear o
  else if op &&& 0xFF = 0x09 then .reserved0909 o
  else if op &&& 0xFE = 0x0A then .reserved0A0B op o
  else if op &&& 0xFC = 0x0C then .reserved0C0F op o
  else if op &&& 0xF0 = 0x10 then .reserved101F op o
  else if op &&& 0xE0 = 0x20 then .reserved203F op o
  else if op &&& 0xC0 = 0x40 then .reserved407F op o
  else .reserved80FF op o

/-- The command on the port `cmd_word`.  Every word is a command (R52, R53, R146). -/
def decodeWord (w : CmdWord) : Instr := instrOf (opField w) (operandsField w)

/-- Why a byte string is not a command. -/
inductive DecodeError where
  /-- Fewer than the 22 bytes of a command word (R50): there is no shorter form. -/
  | shortWord (bytes : Nat)
  deriving DecidableEq, Repr

/-- The command word whose byte `k` is element `k` of the list (R50). -/
def wordOfBytes (bs : List Byte) : CmdWord :=
  bs.foldr (fun b acc => acc <<< 8 ||| b.setWidth 176) 0

/-- Decode the first command of a byte string, byte 0 first, and give the bytes after it. -/
def decode (bs : List Byte) : Except DecodeError (Instr × List Byte) :=
  if bs.length < 22 then .error (.shortWord bs.length)
  else .ok (decodeWord (wordOfBytes (bs.take 22)), bs.drop 22)

/-! ### The encoder -/

/-- The opcode of a command (R52). -/
def Instr.opcode : Instr → Byte
  | .nop _ => 0x00
  | .parse _ => 0x01
  | .chkdig _ => 0x02
  | .encode _ => 0x03
  | .shift _ => 0x04
  | .ichk5 _ => 0x05
  | .ichk4 _ => 0x06
  | .embed _ => 0x07
  | .clear _ => 0x08
  | .reserved0909 _ => 0x09
  | .reserved0A0B op _ => op
  | .reserved0C0F op _ => op
  | .reserved101F op _ => op
  | .reserved203F op _ => op
  | .reserved407F op _ => op
  | .reserved80FF op _ => op

/-- The operand fields of a command. -/
def Instr.operands : Instr → Operands
  | .nop o => o
  | .parse o => o
  | .chkdig o => o
  | .encode o => o
  | .shift o => o
  | .ichk5 o => o
  | .ichk4 o => o
  | .embed o => o
  | .clear o => o
  | .reserved0909 o => o
  | .reserved0A0B _ o => o
  | .reserved0C0F _ o => o
  | .reserved101F _ o => o
  | .reserved203F _ o => o
  | .reserved407F _ o => o
  | .reserved80FF _ o => o

/-- `CHARS` as the field `cmd_word[175:48]` (R50): `CHARS[0]` is least significant. -/
def packChars (chars : Vector Byte 16) : BitVec 128 :=
  chars[15] ++ chars[14] ++ chars[13] ++ chars[12] ++ chars[11] ++ chars[10] ++ chars[9] ++
  chars[8] ++ chars[7] ++ chars[6] ++ chars[5] ++ chars[4] ++ chars[3] ++ chars[2] ++
  chars[1] ++ chars[0]

/-- The word of an opcode and its operands, most significant field first (R50). -/
def packWord (op : Byte) (o : Operands) : CmdWord := packChars o.chars ++ o.data ++ o.len ++ op

/-- The command word of a command. -/
def encodeWord (i : Instr) : CmdWord := packWord i.opcode i.operands

/-- The 22 bytes of a command word, byte 0 first (R50). -/
def bytesOfWord (w : CmdWord) : List Byte := (List.range 22).map (byteOf w)

/-- The 22 bytes of a command. -/
def encode (i : Instr) : List Byte := bytesOfWord (encodeWord i)

/-- The assembler form of a command's operands (R60): a string gives `LEN` and `CHARS`, the unused
elements of `CHARS` zero; a number gives `DATA`. -/
def assemble (s : List Byte) (data : BitVec 32) : Operands :=
  { len := BitVec.ofNat 8 s.length, data := data, chars := Vector.ofFn fun i => s.getD i.val 0 }

/-! ### Words given as numbers -/

/-- The command word of an opcode-table row given as its low `nbits` bits, every bit above them 0. -/
def wordOfTable (nbits w : Nat) : CmdWord := BitVec.ofNat 176 (w % 2 ^ nbits)

/-- The command the decoder reads from an instruction given as a number whose bit 0 is the least
significant bit of byte 0. -/
def decodeTableWord (nbits w : Nat) : Option Instr :=
  if 176 < nbits then none
  else
    match decode (bytesOfWord (wordOfTable nbits w)) with
    | .ok (i, _) => some i
    | .error _ => none

end Sys2Proof
end

