-- ==== Sys2Proof/Config.lean ====
section
/-! DEFINITION. The implementation parameters of R7 as one record, and the two free values of the
model.  The values this hardware takes stand in `Sys2Proof/Machine/Params.lean`. -/

namespace Sys2Proof

/-- The four weighting tables of the PW unit (R32, R38 to R41), present only with the unit (R5). -/
structure PwTables where
  /-- `W2M`, the document's `check2minus` (R38). -/
  w2m : Vector Digit 10
  /-- `W3`, the document's `check3` (R39). -/
  w3 : Vector Digit 10
  /-- `W5P`, the document's `check5plus` (R40). -/
  w5p : Vector Digit 10
  /-- `W5M`, the document's `check5minus` (R41). -/
  w5m : Vector Digit 10
  deriving DecidableEq, Repr

/-- The parameters of R7.  They are configuration, not state: no command and no reset changes one
(R30, R141).  A table is indexed by a digit and read one whole entry at a time (R31); an entry is
written with its leftmost element as the most significant bit (R33). -/
structure Config where
  /-- `QZ`, the number of zero modules of each quiet zone. -/
  qz : Nat
  /-- `BITLEN` has 8 bits (R14) and holds `95 + 2*QZ` (R20).  DEDUCED, log entry 5. -/
  qz_fits : qz ≤ 80
  /-- `EMBED_LIMIT`: `EMBED` fails unless `DATA` is below it. -/
  embedLimit : Nat
  /-- `pad5` is given only for 0 to 99999 (R56).  DEDUCED, log entry 5. -/
  embedLimit_padded : embedLimit ≤ 100000
  /-- `WRAP_PREFIX_CHECK`: a 16-character string must begin with `"01"` (R58). -/
  wrapPrefixCheck : Bool
  /-- `LUT_PARITY` (R34). -/
  parity : Vector (BitVec 6) 10
  /-- `LUT_LODD` (R35). -/
  lodd : Vector (BitVec 7) 10
  /-- `LUT_LEVEN` (R36). -/
  leven : Vector (BitVec 7) 10
  /-- `LUT_RIGHT` (R37). -/
  right : Vector (BitVec 7) 10
  /-- `HAS_PW` and the tables that come with it: `none` is `HAS_PW = 0`, where the weighting tables
  do not exist (R5, R32).  DESIGN CHOICE of form, log entry 10. -/
  pw : Option PwTables
  deriving DecidableEq, Repr

/-- `BITMAX = 95 + 2*QZ`, the number of elements of the register `BITS` (R10). -/
def Config.bitMax (cfg : Config) : Nat := 95 + 2 * cfg.qz

/-- `HAS_PW` (R7). -/
def Config.hasPw (cfg : Config) : Bool := cfg.pw.isSome

/-- Free value: what `SHIFT` delivers where `BITPOS < BITLEN` and `BITPOS` is beyond `BITMAX - 1`.
`BITS` has no such element and no run reaches such a state (R29 I3).  Log entry 3. -/
opaque Config.freeModule : Nat → Bool

/-- Free value: the character at index 16 or above of a string operand with `LEN > 16`.  The command
word does not carry it and no command examines it (R54).  Log entry 4. -/
opaque Config.uncarriedChar : Nat → Byte

end Sys2Proof
end

