-- ==== Sys2Proof/Machine/Params.lean ====
section
/-! DEFINITION. The values this hardware takes for the parameters of R7: the contents of the lookup
tables (R34 to R41) and the record `config`.  The spec gives the contents of the eight tables from
general knowledge (G1, G2): PRESUMED, log entry 7. -/

namespace Sys2Proof.Machine

/-- `PARITY` (R34), leftmost element first: 0 selects the odd table, 1 the even table. -/
def lutParity : Vector (BitVec 6) 10 :=
  #v[0b000000, 0b001011, 0b001101, 0b001110, 0b010011,
     0b011001, 0b011100, 0b010101, 0b010110, 0b011010]

/-- `LODD`, the odd-parity left-hand patterns (R35). -/
def lutLodd : Vector (BitVec 7) 10 :=
  #v[0b0001101, 0b0011001, 0b0010011, 0b0111101, 0b0100011,
     0b0110001, 0b0101111, 0b0111011, 0b0110111, 0b0001011]

/-- `LEVEN`, the even-parity left-hand patterns (R36). -/
def lutLeven : Vector (BitVec 7) 10 :=
  #v[0b0100111, 0b0110011, 0b0011011, 0b0100001, 0b0011101,
     0b0111001, 0b0000101, 0b0010001, 0b0001001, 0b0010111]

/-- `RIGHT`, the right-hand patterns (R37). -/
def lutRight : Vector (BitVec 7) 10 :=
  #v[0b1110010, 0b1100110, 0b1101100, 0b1000010, 0b1011100,
     0b1001110, 0b1010000, 0b1000100, 0b1001000, 0b1110100]

/-- `W2M` (R38). -/
def lutW2m : Vector Digit 10 := #v[0, 2, 4, 6, 8, 9, 1, 3, 5, 7]

/-- `W3` (R39). -/
def lutW3 : Vector Digit 10 := #v[0, 3, 6, 9, 2, 5, 8, 1, 4, 7]

/-- `W5P` (R40). -/
def lutW5p : Vector Digit 10 := #v[0, 5, 1, 6, 2, 7, 3, 8, 4, 9]

/-- `W5M` (R41). -/
def lutW5m : Vector Digit 10 := #v[0, 5, 9, 4, 8, 3, 7, 2, 6, 1]

/-- The weighting tables of this hardware. -/
def pwTables : PwTables := { w2m := lutW2m, w3 := lutW3, w5p := lutW5p, w5m := lutW5m }

/-- This hardware: the "value for this hardware" column of R7. -/
def config : Config where
  qz := 9
  qz_fits := by decide
  embedLimit := 99999
  embedLimit_padded := by decide
  wrapPrefixCheck := false
  parity := lutParity
  lodd := lutLodd
  leven := lutLeven
  right := lutRight
  pw := some pwTables

end Sys2Proof.Machine
end

