-- ==== Sys2Proof/Machine/State.lean ====
section
/-! DEFINITION. The state of EANCORE: the result state `RS` (R10, R14) and the clock edges that the
host has still to drive (R26, R44).  Reset, faults and refusals stand beside it. -/

namespace Sys2Proof.Machine

/-- The three encodings (R17). -/
inductive Encoding where
  | ean8
  | ean13
  | ean14
  deriving DecidableEq, Repr

/-- The failure categories (R126), `NONE` apart.  A failure is a value in the register `CAUSE`,
not a stop of the machine (R125). -/
inductive Cause where
  /-- `LEN` is not a length the command accepts. -/
  | length
  /-- An examined character is not a decimal digit. -/
  | nonnumeric
  /-- The supplied check digit differs from the computed one. -/
  | checksum
  /-- The reverse table has no entry for the computed value. -/
  | invmiss
  /-- `DATA` is not below `EMBED_LIMIT`. -/
  | range
  /-- The opcode is reserved, or belongs to an absent PW unit. -/
  | illegalOp
  deriving DecidableEq, Repr

/-- What the host drives on the input ports at one rising edge of `clk` (R26). -/
structure Edge where
  /-- `rst`, synchronous reset, active high. -/
  rst : Bool
  /-- `cmd_valid`, the command strobe. -/
  cmdValid : Bool
  /-- `cmd_word`. -/
  cmdWord : CmdWord
  deriving DecidableEq, Repr

/-- The result state `RS` (R14), for a block whose `BITS` has `bitMax` elements. -/
structure ResultState (bitMax : Nat) where
  /-- `VALID` (R15): the last executing command produced a result. -/
  valid : Bool
  /-- `CAUSE` (R16): the failure category of the last executing command, 0 when none. -/
  cause : BitVec 3
  /-- `ENC` (R17): the encoding tag of the result, 0 when none. -/
  enc : BitVec 2
  /-- `HASCODE` (R14): `digits` holds a BarcodeValue. -/
  hascode : Bool
  /-- `DIGITS[0..13]` (R18), most significant digit first. -/
  digits : Vector (BitVec 4) 14
  /-- `CHECK` (R19): a single result digit. -/
  check : BitVec 4
  /-- `BITS[0..BITMAX-1]` (R20), leftmost module first. -/
  bits : Vector Bool bitMax
  /-- `BITLEN` (R20): the number of elements of `bits` that belong to the sequence. -/
  bitlen : BitVec 8
  /-- `BITPOS` (R21): the index of the next module `SHIFT` delivers. -/
  bitpos : BitVec 8
  /-- `MOD` (R21): the module delivered by the last `SHIFT`. -/
  mod : Bool
  /-- `MODV` (R21): `mod` is a module of the sequence. -/
  modv : Bool
  deriving DecidableEq, Repr

/-- The cleared state `RS0` (R22): every register is 0. -/
def ResultState.cleared (bitMax : Nat) : ResultState bitMax where
  valid := false
  cause := 0
  enc := 0
  hascode := false
  digits := Vector.replicate 14 0
  check := 0
  bits := Vector.replicate bitMax false
  bitlen := 0
  bitpos := 0
  mod := false
  modv := false

/-- The machine: the result state, which is all the state the spec gives it (R10, R48), and the
model's own record of the environment, the edges the host drives from now on, the next one first
(R13, R44; DESIGN CHOICE, log entry 1). -/
structure State where
  /-- `RS`, the architectural state. -/
  rs : ResultState config.bitMax
  /-- The edges still to come.  After the last one the host drives no command (log entry 1). -/
  edges : List Edge
  deriving DecidableEq, Repr

/-- The machine right after reset (R25, R140): `RS = RS0`, and the host has driven nothing yet (log
entries 1 and 2). -/
def State.reset : State where
  rs := ResultState.cleared config.bitMax
  edges := []

/-- Reasons to stop with a fault: none.  Every failure of EANCORE is a value (R125) and no command
can stop the block (R123, R132), so the type has no constructor. -/
inductive Fault where
  deriving DecidableEq, Repr

/-- Reasons to have no meaning for a command. -/
inductive Refusal where
  /-- Raised only by an arm of `exec` for a command that has no meaning yet.  Safe: nothing is
  claimed of the command.  No arm raises it. -/
  | notModelled (mnemonic : String)
  deriving DecidableEq, Repr

end Sys2Proof.Machine
end

