-- ==== Sys2Proof/Machine/Flags.lean ====
section
/-! DEFINITION. The codes of the two tagged registers and the packed view of the four status
registers. -/

namespace Sys2Proof.Machine

/-- The code of a failure category in `CAUSE` (R126); 0 is `NONE` and 7 is never produced. -/
def Cause.code : Cause → BitVec 3
  | .length => 1
  | .nonnumeric => 2
  | .checksum => 3
  | .invmiss => 4
  | .range => 5
  | .illegalOp => 6

/-- The code of an encoding in `ENC` (R17); 0 is none. -/
def Encoding.code : Encoding → BitVec 2
  | .ean8 => 1
  | .ean13 => 2
  | .ean14 => 3

/-- `N(enc)`, the number of digits of a code, its check digit included (R17). -/
def Encoding.size : Encoding → Nat
  | .ean8 => 8
  | .ean13 => 13
  | .ean14 => 14

/-- The `status` port (R23): bit 0 is `VALID`, bits 3 to 1 `CAUSE`, bits 5 to 4 `ENC`, bit 6
`HASCODE`, bit 7 zero. -/
def statusPort {n : Nat} (rs : ResultState n) : BitVec 8 :=
  0#1 ++ BitVec.ofBool rs.hascode ++ rs.enc ++ rs.cause ++ BitVec.ofBool rs.valid

end Sys2Proof.Machine
end

