-- ==== Sys2Proof/Machine/Operands.lean ====
section
/-! DEFINITION. Operand assembly: characters and digits (R55), the string operand (R54), zero
padding (R56), the length dispatch (R57) and the digit sequence of an accepted string (R58). -/

namespace Sys2Proof.Machine

/-! ### Characters and digits -/

/-- The value of a digit character: `c - 0x30` when `0x30 <= c <= 0x39`; every other character has
none (R55).  That the code is ASCII is the spec's, from general knowledge (G3): PRESUMED, log entry
8. -/
def digitValue (c : Byte) : Option Digit :=
  if h : 0x30 ≤ c.toNat ∧ c.toNat ≤ 0x39 then some ⟨c.toNat - 0x30, by omega⟩ else none

/-- `isdigit(c)` (R8, R55). -/
def isDigit (c : Byte) : Bool := (digitValue c).isSome

/-- `dchar(d) = 0x30 + d` (R8). -/
def digitChar (d : Digit) : Byte := BitVec.ofNat 8 (0x30 + d.val)

/-- `allDigits(s)` (R55). -/
def allDigits (s : List Byte) : Bool := s.all isDigit

/-- The values of the digit characters of a string, in order; on an all-digit string, of every
character. -/
def digitValues (s : List Byte) : List Digit := s.filterMap digitValue

/-- A digit in a 4-bit register element (R18, R19). -/
def nibble (d : Digit) : BitVec 4 := BitVec.ofNat 4 d.val

/-! ### The two operands -/

/-- The string operand: `len(s) = LEN` and `s[i] = CHARS[i]` below 16; the characters above are not
carried (R54). -/
def operandString (o : Operands) : List Byte :=
  o.chars.toList.take o.len.toNat ++
    (List.range (o.len.toNat - 16)).map fun i => Config.uncarriedChar (16 + i)

/-- `pad5(n)`: the five digit characters of `n <= 99999`, zeros on the left (R56). -/
def pad5 (n : Nat) : List Byte :=
  [n / 10000, n / 1000, n / 100, n / 10, n].map fun q => digitChar (Fin.ofNat 10 q)

/-! ### Length dispatch -/

/-- How a string spells its code (R57, column "form"). -/
inductive Form where
  /-- The check digit is not in the string. -/
  | payload
  /-- The last character is a presumed check digit. -/
  | full
  deriving DecidableEq, Repr

/-- A row of the length dispatch table (R57). -/
structure StringClass where
  enc : Encoding
  form : Form
  /-- The number of leading characters that are no part of the code: 2 for the wrapper form. -/
  skip : Nat
  deriving DecidableEq, Repr

/-- `classify(n)` (R57). -/
def classify : Nat → Option StringClass
  | 7 => some ⟨.ean8, .payload, 0⟩
  | 8 => some ⟨.ean8, .full, 0⟩
  | 12 => some ⟨.ean13, .payload, 0⟩
  | 13 => some ⟨.ean13, .full, 0⟩
  | 14 => some ⟨.ean14, .full, 0⟩
  | 16 => some ⟨.ean14, .full, 2⟩
  | _ => none

/-- The test of `WRAP_PREFIX_CHECK` (R58): a wrapper string begins with `"01"`, or the test is off.
Where a string fails it and also holds a non-digit, the model reports `LENGTH`, the earlier of the
two in R128 (DESIGN CHOICE for the non-default parameter, log entry 6). -/
def wrapPrefixAccepted (cfg : Config) (k : StringClass) (s : List Byte) : Bool :=
  !cfg.wrapPrefixCheck || k.skip != 2 || s.take 2 == [0x30, 0x31]

/-- `classify` of the string's length, with the prefix test of `WRAP_PREFIX_CHECK`. -/
def classifyString (cfg : Config) (s : List Byte) : Option StringClass :=
  (classify s.length).filter fun k => wrapPrefixAccepted cfg k s

/-- `digitsOf(s)` (R58): the digits of the characters after the skipped ones. -/
def digitsOf (k : StringClass) (s : List Byte) : List Digit := digitValues (s.drop k.skip)

/-! ### The value of a code -/

/-- The document's BarcodeValue (R28): an encoding and its digits, the last the check digit. -/
structure BarcodeValue where
  enc : Encoding
  digits : List Digit
  deriving DecidableEq, Repr

/-- `code`, the canonical string form (R18). -/
def BarcodeValue.code (b : BarcodeValue) : List Byte := b.digits.map digitChar

/-- The trailing digit `DIGITS[N(ENC)-1]` (R19). -/
def BarcodeValue.lastDigit (b : BarcodeValue) : Digit := b.digits.getD (b.enc.size - 1) 0

end Sys2Proof.Machine
end

