-- ==== Sys2Proof/Machine/Ops.lean ====
section
/-! DEFINITION. The operations on the result registers that the command rules share: writing the
two buffers (R43), failing (R127), publishing a result (R24), delivering a module (R110), and
completing a command. -/

namespace Sys2Proof.Machine

/-! ### The two writable buffers -/

/-- `DIGITS[i] <- d[i]` for every index of `d`, over a cleared `DIGITS` (R18, R43). -/
def loadDigits (d : List Digit) : Vector (BitVec 4) 14 :=
  Vector.ofFn fun i => nibble (d.getD i.val 0)

/-- `BITS[i] <- b[i]` for every index of `b`, over a cleared `BITS` (R20, R43). -/
def loadBits {n : Nat} (b : BitSeq) : Vector Bool n := Vector.ofFn fun i => b.getD i.val false

/-- `MemRead(BITS, i)`: one module (R8, R32).  Beyond `BITMAX - 1` there is no element: a free
value (log entry 3). -/
def readModule {n : Nat} (rs : ResultState n) (i : Nat) : Bool :=
  (rs.bits[i]?).getD (Config.freeModule i)

/-! ### Failing and succeeding -/

/-- `raise Fail(cause)` (R127), the one way a command fails: `RS <- RS0; CAUSE <- cause`.  It is no
trap: nothing is saved, no mode changes and no control is transferred (R131), and there is no return
(R132). -/
def failed {n : Nat} (c : Cause) : ResultState n :=
  { ResultState.cleared n with cause := c.code }

/-- The result of a command that returns a BarcodeValue: over `RS0`, `VALID`, `ENC`, `HASCODE`,
`DIGITS` and `CHECK` (R24). -/
def publishCode {n : Nat} (b : BarcodeValue) (check : Digit) : ResultState n :=
  { ResultState.cleared n with
    valid := true
    enc := b.enc.code
    hascode := true
    digits := loadDigits b.digits
    check := nibble check }

/-- The result of a command that returns a digit alone: over `RS0`, `VALID`, `ENC` and `CHECK`
(R24, R78). -/
def publishDigit {n : Nat} (e : Encoding) (check : Digit) : ResultState n :=
  { ResultState.cleared n with valid := true, enc := e.code, check := nibble check }

/-- The bit sequence of a command is put beside the rest of its result (R109). -/
def publishBits {n : Nat} (rs : ResultState n) (b : BitSeq) : ResultState n :=
  { rs with bits := loadBits b, bitlen := BitVec.ofNat 8 b.length }

/-! ### The serializer -/

/-- Deliver one module: the effect of `SHIFT` (R21, R110). -/
def shiftOut {n : Nat} (rs : ResultState n) : ResultState n :=
  if rs.bitpos.toNat < rs.bitlen.toNat then
    { rs with mod := readModule rs rs.bitpos.toNat, modv := true, bitpos := rs.bitpos + 1 }
  else { rs with mod := false, modv := false }

/-! ### Completing a command -/

/-- A command completes: the result state is replaced, all at once (R8, R43, R44), and the edges the
host has still to drive are as before. -/
def complete (rs : ResultState config.bitMax) (s : State) : Host.Outcome State Fault Refusal :=
  .next { s with rs := rs }

end Sys2Proof.Machine
end

