-- ==== Sys2Proof/Machine/Clock.lean ====
section
/-! DEFINITION. What a rising edge of `clk` asks of the block (R26, R140, R144), and where the next
edge comes from. -/

namespace Sys2Proof.Machine

/-- The three things an edge can ask (R144). -/
inductive EdgeAction where
  /-- `rst = 1`: `RS <- RS0` (R140). -/
  | reset
  /-- `rst = 0` and `cmd_valid = 1`: the command executes. -/
  | command (i : Instr)
  /-- `rst = 0` and `cmd_valid = 0`: nothing changes. -/
  | idle
  deriving DecidableEq, Repr

/-- Reset wins over a command presented at the same edge (R140, R144). -/
def edgeAction (e : Edge) : EdgeAction :=
  if e.rst then .reset else if e.cmdValid then .command (decodeWord e.cmdWord) else .idle

/-- An edge that presents a command word (R26). -/
def commandEdge (w : CmdWord) : Edge := { rst := false, cmdValid := true, cmdWord := w }

/-- The effect of reset (R140). -/
def resetRegisters (s : State) : State := { s with rs := ResultState.cleared config.bitMax }

/-- What the next edge asks, and the state with that edge gone.  When the host has nothing more to
drive, the edge is idle. -/
def nextEdge (s : State) : EdgeAction × State :=
  match s.edges with
  | [] => (.idle, s)
  | e :: rest => (edgeAction e, { s with edges := rest })

end Sys2Proof.Machine
end

