-- ==== Sys2Proof/Machine/CheckDigit.lean ====
section
/-! DEFINITION. The CHK unit: the three modulo-10 weighted sums (R70 to R73), the functions `parse`
and `checkDigit` (R75, R76), and the commands `PARSE` and `CHKDIG` (R77, R78). -/

namespace Sys2Proof.Machine

/-! ### The three weighted sums -/

/-- `p[i]` as a natural number.  A sequence of a validated code has every index that a rule reads;
the 0 beyond its end is never used (DESIGN CHOICE, log entry 9). -/
def digitAt (p : List Digit) (i : Nat) : Nat := (p.getD i 0).val

/-- `(10 - mod10) mod 10` (R73). -/
def complement10 (mod10 : Nat) : Digit := Fin.ofNat 10 (10 - mod10)

/-- `cd8(p)` for a payload of 7 digits (R70). -/
def cd8 (p : List Digit) : Digit :=
  let sum1 := digitAt p 1 + digitAt p 3 + digitAt p 5
  let sum2 := digitAt p 0 + digitAt p 2 + digitAt p 4 + digitAt p 6
  complement10 ((sum1 + 3 * sum2) % 10)

/-- `cd13(p)` for a payload of 12 digits (R71). -/
def cd13 (p : List Digit) : Digit :=
  let sum1 := digitAt p 1 + digitAt p 3 + digitAt p 5 + digitAt p 7 + digitAt p 9 + digitAt p 11
  let sum2 := digitAt p 0 + digitAt p 2 + digitAt p 4 + digitAt p 6 + digitAt p 8 + digitAt p 10
  complement10 ((3 * sum1 + sum2) % 10)

/-- `cd14(p)` for a payload of 13 digits (R72). -/
def cd14 (p : List Digit) : Digit :=
  let sum1 := digitAt p 1 + digitAt p 3 + digitAt p 5 + digitAt p 7 + digitAt p 9 + digitAt p 11
  let sum2 := digitAt p 0 + digitAt p 2 + digitAt p 4 + digitAt p 6 + digitAt p 8 + digitAt p 10 +
    digitAt p 12
  complement10 ((sum1 + 3 * sum2) % 10)

/-- `cd(enc, p)` (R73). -/
def checkDigitOf : Encoding → List Digit → Digit
  | .ean8, p => cd8 p
  | .ean13, p => cd13 p
  | .ean14, p => cd14 p

/-! ### The functions -/

/-- The presumed check digit of a full form is the computed one; a payload form presumes none
(R75). -/
def presumedAccepted (form : Form) (presumed computed : Digit) : Bool :=
  match form with
  | .payload => true
  | .full => presumed == computed

/-- `parse(s)` (R75).  The tests are in the order of R59 and R128.  The properties that R80 requires
are properties of this function and of `checkDigit`. -/
def parse (cfg : Config) (s : List Byte) : Except Cause BarcodeValue :=
  match classifyString cfg s with
  | none => .error .length
  | some k =>
    if allDigits s then
      let d := digitsOf k s
      let p := d.take (k.enc.size - 1)
      let c := checkDigitOf k.enc p
      if presumedAccepted k.form (d.getD (k.enc.size - 1) 0) c then .ok ⟨k.enc, p ++ [c]⟩
      else .error .checksum
    else .error .nonnumeric

/-- `checkDigit(s)` (R76, R80), with the encoding of the length dispatch, which `CHKDIG` shows in `ENC`
(R78).  Every character is tested, the presumed check digit too. -/
def checkDigit (cfg : Config) (s : List Byte) : Except Cause (Encoding × Digit) :=
  match classifyString cfg s with
  | none => .error .length
  | some k =>
    if allDigits s then .ok (k.enc, checkDigitOf k.enc ((digitsOf k s).take (k.enc.size - 1)))
    else .error .nonnumeric

/-! ### The commands -/

/-- The result state of `PARSE` (R77). -/
def parseResult (cfg : Config) (o : Operands) : ResultState cfg.bitMax :=
  match parse cfg (operandString o) with
  | .error c => failed c
  | .ok b => publishCode b b.lastDigit

/-- The result state of `CHKDIG` (R78). -/
def chkdigResult (cfg : Config) (o : Operands) : ResultState cfg.bitMax :=
  match checkDigit cfg (operandString o) with
  | .error c => failed c
  | .ok (e, c) => publishDigit e c

/-- `PARSE` (R77). -/
def execParse (o : Operands) (s : State) : Host.Outcome State Fault Refusal :=
  complete (parseResult config o) s

/-- `CHKDIG` (R78). -/
def execChkdig (o : Operands) (s : State) : Host.Outcome State Fault Refusal :=
  complete (chkdigResult config o) s

/-- The pseudo-instruction `VALIDATE s` (R61): `PARSE s`, then read `VALID`. -/
def validate (o : Operands) : Bool := (parseResult config o).valid

end Sys2Proof.Machine
end

