-- ==== Sys2Proof/Machine/BitEncoder.lean ====
section
/-! DEFINITION. The ENC unit: the function `encode` (R105), the two bit layouts (R106, R107), and
the commands `ENCODE` and `SHIFT` (R109, R110). -/

namespace Sys2Proof.Machine

/-! ### The layouts -/

/-- A 7-bit pattern entry, leftmost module first (R33). -/
def patternBits (p : BitVec 7) : BitSeq :=
  [p.getMsbD 0, p.getMsbD 1, p.getMsbD 2, p.getMsbD 3, p.getMsbD 4, p.getMsbD 5, p.getMsbD 6]

/-- The guard `101`. -/
def guardBits : BitSeq := [true, false, true]

/-- The separator `01010`. -/
def separatorBits : BitSeq := [false, true, false, true, false]

/-- A quiet zone, `rep(0, QZ)`. -/
def quietZone (cfg : Config) : BitSeq := List.replicate cfg.qz false

/-- `left(j)` of R106: bit `j` of the parity row of `g[0]` selects the table for `g[1+j]`. -/
def left13 (cfg : Config) (g : List Digit) (j : Nat) : BitSeq :=
  let d := g.getD (1 + j) 0
  if cfg.parity[g.getD 0 0].getMsbD j then patternBits cfg.leven[d] else patternBits cfg.lodd[d]

/-- The odd left-hand pattern of `g[j]` (R107). -/
def left8 (cfg : Config) (g : List Digit) (j : Nat) : BitSeq := patternBits cfg.lodd[g.getD j 0]

/-- The right-hand pattern of `g[i]` (R106, R107). -/
def rightOf (cfg : Config) (g : List Digit) (i : Nat) : BitSeq := patternBits cfg.right[g.getD i 0]

/-- The symbol core of an EAN-13, guard to guard (R106 items 2 to 6). -/
def core13 (cfg : Config) (g : List Digit) : BitSeq :=
  guardBits ++
  left13 cfg g 0 ++ left13 cfg g 1 ++ left13 cfg g 2 ++
  left13 cfg g 3 ++ left13 cfg g 4 ++ left13 cfg g 5 ++
  separatorBits ++
  rightOf cfg g 7 ++ rightOf cfg g 8 ++ rightOf cfg g 9 ++
  rightOf cfg g 10 ++ rightOf cfg g 11 ++ rightOf cfg g 12 ++
  guardBits

/-- The symbol core of an EAN-8, guard to guard (R107 items 2 to 6). -/
def core8 (cfg : Config) (g : List Digit) : BitSeq :=
  guardBits ++
  left8 cfg g 0 ++ left8 cfg g 1 ++ left8 cfg g 2 ++ left8 cfg g 3 ++
  separatorBits ++
  rightOf cfg g 4 ++ rightOf cfg g 5 ++ rightOf cfg g 6 ++ rightOf cfg g 7 ++
  guardBits

/-- `bits13(g)` (R106). -/
def bits13 (cfg : Config) (g : List Digit) : BitSeq :=
  quietZone cfg ++ core13 cfg g ++ quietZone cfg

/-- `bits8(g)` (R107). -/
def bits8 (cfg : Config) (g : List Digit) : BitSeq :=
  quietZone cfg ++ core8 cfg g ++ quietZone cfg

/-- `encode(s)` (R105): the length alone chooses the path, and a payload-only string is refused on
purpose (R112). -/
def encodeString (cfg : Config) (s : List Byte) : Except Cause BitSeq :=
  if s.length = 13 then (parse cfg s).map fun b => bits13 cfg b.digits
  else if s.length = 8 then (parse cfg s).map fun b => bits8 cfg b.digits
  else .error .length

/-! ### The commands -/

/-- The result state of `ENCODE` (R109). -/
def encodeResult (cfg : Config) (o : Operands) : ResultState cfg.bitMax :=
  if o.len = 8 ∨ o.len = 13 then
    match parse cfg (operandString o) with
    | .error c => failed c
    | .ok b =>
      publishBits (publishCode b b.lastDigit)
        (if o.len = 13 then bits13 cfg b.digits else bits8 cfg b.digits)
  else failed .length

/-- `ENCODE` (R109). -/
def execEncode (o : Operands) (s : State) : Host.Outcome State Fault Refusal :=
  complete (encodeResult config o) s

/-- `SHIFT` (R110).  Its operands are ignored and `RS` is not cleared. -/
def execShift (_o : Operands) (s : State) : Host.Outcome State Fault Refusal :=
  complete (shiftOut s.rs) s

/-! ### The pseudo-instruction SHIFTALL -/

/-- `SHIFT` repeated until it answers `MODV = 0`, at most `count` times: the modules delivered with
`MODV = 1`, in order, and the result state at the end (R61). -/
def shiftUntilEnd {n : Nat} : (count : Nat) → ResultState n → BitSeq × ResultState n
  | 0, rs => ([], rs)
  | count + 1, rs =>
    let next := shiftOut rs
    if next.modv then
      let rest := shiftUntilEnd count next
      (next.mod :: rest.1, rest.2)
    else ([], next)

/-- `SHIFTALL` (R61): `BITLEN - BITPOS + 1` `SHIFT` commands. -/
def shiftAll {n : Nat} (rs : ResultState n) : BitSeq × ResultState n :=
  shiftUntilEnd (rs.bitlen.toNat - rs.bitpos.toNat + 1) rs

end Sys2Proof.Machine
end

