-- ==== Sys2Proof/Machine/PriceWeight.lean ====
section
/-! DEFINITION. The PW unit: the internal checksums (R91, R92), `embedDataInEan` (R93), and the
commands `ICHK5`, `ICHK4` and `EMBED` (R94 to R96).  Without the unit (`HAS_PW = 0`) the three
commands are illegal (R122). -/

namespace Sys2Proof.Machine

/-! ### The functions -/

/-- `W5M_INV[m]` (R42): the smallest digit `k` with `W5M[k] = m`, or none.  It is computed from
`W5M` and is no parameter of its own (R142). -/
def w5mInv (t : PwTables) (m : Digit) : Option Digit :=
  (List.finRange 10).find? fun k => t.w5m[k] == m

/-- The weighted sum of `internalChecksum5` over `g[7..11]` (R91). -/
def sum5 (t : PwTables) (g : List Digit) : Nat :=
  let q := fun i => g.getD (7 + i) 0
  t.w5p[q 0].val + t.w2m[q 1].val + t.w5m[q 2].val + t.w5p[q 3].val + t.w2m[q 4].val

/-- `ic5(g)` (R91): none is the document's sentinel. -/
def ic5 (t : PwTables) (g : List Digit) : Option Digit :=
  w5mInv t (complement10 (sum5 t g % 10))

/-- The weighted sum of `internalChecksum4` over `g[8..11]` (R92). -/
def sum4 (t : PwTables) (g : List Digit) : Nat :=
  let q := fun i => g.getD (8 + i) 0
  t.w2m[q 0].val + t.w2m[q 1].val + t.w3[q 2].val + t.w5m[q 3].val

/-- `ic4(g)` (R92). -/
def ic4 (t : PwTables) (g : List Digit) : Digit := Fin.ofNat 10 (sum4 t g * 3)

/-- `embedDataInEan(t, data)` (R93). -/
def embedDataInEan (cfg : Config) (pw : PwTables) (t : List Byte) (data : Nat) :
    Except Cause BarcodeValue :=
  if cfg.embedLimit ≤ data then .error .range
  else if t.length < 6 then .error .length
  else
    match parse cfg (t.take 6 ++ [0x30] ++ pad5 data) with
    | .error c => .error c
    | .ok r1 =>
      match ic5 pw r1.digits with
      | none => .error .invmiss
      | some k => parse cfg (r1.code.take 6 ++ [digitChar k] ++ pad5 data)

/-! ### The commands -/

/-- The EAN-13 that `ICHK5` and `ICHK4` work on: a string of length 12 or 13 that `parse` accepts
(R90). -/
def validatedEan13 (cfg : Config) (o : Operands) : Except Cause BarcodeValue :=
  if o.len = 12 ∨ o.len = 13 then parse cfg (operandString o) else .error .length

/-- The result state of `ICHK5` (R94). -/
def ichk5Result (cfg : Config) (o : Operands) : ResultState cfg.bitMax :=
  match cfg.pw with
  | none => failed .illegalOp
  | some t =>
    match validatedEan13 cfg o with
    | .error c => failed c
    | .ok b =>
      match ic5 t b.digits with
      | none => failed .invmiss
      | some k => publishCode b k

/-- The result state of `ICHK4` (R95). -/
def ichk4Result (cfg : Config) (o : Operands) : ResultState cfg.bitMax :=
  match cfg.pw with
  | none => failed .illegalOp
  | some t =>
    match validatedEan13 cfg o with
    | .error c => failed c
    | .ok b => publishCode b (ic4 t b.digits)

/-- The result state of `EMBED` (R96). -/
def embedResult (cfg : Config) (o : Operands) : ResultState cfg.bitMax :=
  match cfg.pw with
  | none => failed .illegalOp
  | some t =>
    match embedDataInEan cfg t (operandString o) o.data.toNat with
    | .error c => failed c
    | .ok b => publishCode b b.lastDigit

/-- `ICHK5` (R94). -/
def execIchk5 (o : Operands) (s : State) : Host.Outcome State Fault Refusal :=
  complete (ichk5Result config o) s

/-- `ICHK4` (R95). -/
def execIchk4 (o : Operands) (s : State) : Host.Outcome State Fault Refusal :=
  complete (ichk4Result config o) s

/-- `EMBED` (R96). -/
def execEmbed (o : Operands) (s : State) : Host.Outcome State Fault Refusal :=
  complete (embedResult config o) s

end Sys2Proof.Machine
end

