-- ==== Sys2Proof/Machine/System.lean ====
section
/-! DEFINITION. The system commands `NOP` and `CLEAR` (R120, R121) and the reserved opcodes
(R122). -/

namespace Sys2Proof.Machine

/-- `NOP` (R120): every register keeps its value. -/
def execNop (_o : Operands) (s : State) : Host.Outcome State Fault Refusal := complete s.rs s

/-- `CLEAR` (R121): `RS <- RS0`. -/
def execClear (_o : Operands) (s : State) : Host.Outcome State Fault Refusal :=
  complete (ResultState.cleared config.bitMax) s

/-- The effect of an illegal opcode (R122): it fails with `ILLEGAL_OP`, and the machine goes on. -/
def illegalOpcode (s : State) : Host.Outcome State Fault Refusal := complete (failed .illegalOp) s

/-- Reserved opcode `0x09` (R122). -/
def execReserved0909 (_o : Operands) (s : State) : Host.Outcome State Fault Refusal :=
  illegalOpcode s

/-- Reserved opcodes `0x0A` to `0x0B` (R122). -/
def execReserved0A0B (_op : Byte) (_o : Operands) (s : State) : Host.Outcome State Fault Refusal :=
  illegalOpcode s

/-- Reserved opcodes `0x0C` to `0x0F` (R122). -/
def execReserved0C0F (_op : Byte) (_o : Operands) (s : State) : Host.Outcome State Fault Refusal :=
  illegalOpcode s

/-- Reserved opcodes `0x10` to `0x1F` (R122). -/
def execReserved101F (_op : Byte) (_o : Operands) (s : State) : Host.Outcome State Fault Refusal :=
  illegalOpcode s

/-- Reserved opcodes `0x20` to `0x3F` (R122). -/
def execReserved203F (_op : Byte) (_o : Operands) (s : State) : Host.Outcome State Fault Refusal :=
  illegalOpcode s

/-- Reserved opcodes `0x40` to `0x7F` (R122). -/
def execReserved407F (_op : Byte) (_o : Operands) (s : State) : Host.Outcome State Fault Refusal :=
  illegalOpcode s

/-- Reserved opcodes `0x80` to `0xFF` (R122). -/
def execReserved80FF (_op : Byte) (_o : Operands) (s : State) : Host.Outcome State Fault Refusal :=
  illegalOpcode s

end Sys2Proof.Machine
end

