-- ==== Sys2Proof/Machine/Dispatch.lean ====
section
/-! DEFINITION. The meaning of every command: one arm for each constructor of `Instr`. -/

namespace Sys2Proof.Machine

def exec (i : Instr) (s : State) : Host.Outcome State Fault Refusal :=
  match i with
  | .nop o => Sys2Proof.Machine.execNop o s
  | .parse o => Sys2Proof.Machine.execParse o s
  | .chkdig o => Sys2Proof.Machine.execChkdig o s
  | .encode o => Sys2Proof.Machine.execEncode o s
  | .shift o => Sys2Proof.Machine.execShift o s
  | .ichk5 o => Sys2Proof.Machine.execIchk5 o s
  | .ichk4 o => Sys2Proof.Machine.execIchk4 o s
  | .embed o => Sys2Proof.Machine.execEmbed o s
  | .clear o => Sys2Proof.Machine.execClear o s
  | .reserved0909 o => Sys2Proof.Machine.execReserved0909 o s
  | .reserved0A0B op o => Sys2Proof.Machine.execReserved0A0B op o s
  | .reserved0C0F op o => Sys2Proof.Machine.execReserved0C0F op o s
  | .reserved101F op o => Sys2Proof.Machine.execReserved101F op o s
  | .reserved203F op o => Sys2Proof.Machine.execReserved203F op o s
  | .reserved407F op o => Sys2Proof.Machine.execReserved407F op o s
  | .reserved80FF op o => Sys2Proof.Machine.execReserved80FF op o s

end Sys2Proof.Machine
end

