-- ==== Sys2Proof/Machine/Step.lean ====
section
/-! DEFINITION. One step of the machine: one rising edge of `clk` (R144). -/

namespace Sys2Proof.Machine

/-- One rising edge (R144): reset, a command, or nothing. -/
def step (s : State) : Host.Outcome State Fault Refusal :=
  match nextEdge s with
  | (.reset, s') => .next (resetRegisters s')
  | (.command i, s') => exec i s'
  | (.idle, s') => .next s'

/-- The host presents the given command word at the very next edge, ahead of what it drives after
that.  The block fetches nothing (R13, R46): the port `cmd_word` is where a command comes from. -/
def State.withFetchWord (s : State) (nbits w : Nat) : State :=
  { s with edges := commandEdge (wordOfTable nbits w) :: s.edges }

end Sys2Proof.Machine
end

