-- ==== Sys2Proof/Machine/Ports.lean ====
section
/-! DEFINITION. The output ports (R26): what the host sees of the result state. -/

namespace Sys2Proof.Machine

/-- The `digits` port (R27): `digits[4*i+3 : 4*i] = DIGITS[i]`, so the most significant digit is in
the least significant nibble. -/
def digitsPort {n : Nat} (rs : ResultState n) : BitVec 56 :=
  rs.digits[13] ++ rs.digits[12] ++ rs.digits[11] ++ rs.digits[10] ++ rs.digits[9] ++
  rs.digits[8] ++ rs.digits[7] ++ rs.digits[6] ++ rs.digits[5] ++ rs.digits[4] ++
  rs.digits[3] ++ rs.digits[2] ++ rs.digits[1] ++ rs.digits[0]

/-- A sequence of bits as a number, the first element least significant. -/
def numberOfBits : List Bool → Nat
  | [] => 0
  | b :: bs => b.toNat + 2 * numberOfBits bs

/-- The `bits` port (R27): `bits[i] = BITS[i]`, so the leftmost module is bit 0. -/
def bitsPort {n : Nat} (rs : ResultState n) : BitVec n :=
  BitVec.ofNat n (numberOfBits rs.bits.toList)

/-- The output ports of R26. -/
structure OutputPorts (bitMax : Nat) where
  status : BitVec 8
  digits : BitVec 56
  check : BitVec 4
  bits : BitVec bitMax
  bitlen : BitVec 8
  bitpos : BitVec 8
  mod : Bool
  modv : Bool
  deriving DecidableEq, Repr

/-- The outputs show `RS` continuously (R26). -/
def outputPorts (s : State) : OutputPorts config.bitMax where
  status := statusPort s.rs
  digits := digitsPort s.rs
  check := s.rs.check
  bits := bitsPort s.rs
  bitlen := s.rs.bitlen
  bitpos := s.rs.bitpos
  mod := s.rs.mod
  modv := s.rs.modv

end Sys2Proof.Machine
end

