-- ==== Sys2Proof/Safety.lean ====
section
/-! DEFINITION. What a safe run is: the state invariants of R29, and a run that never stops; and the
vocabulary in which claims speak of operands and results. -/

namespace Sys2Proof

open Machine

/-- The digit of a 4-bit register element that holds one. -/
def digitOfNibble (v : BitVec 4) : Digit := Fin.ofNat 10 v.toNat

/-- The first `N(e)` elements of `DIGITS` as digits: the digit sequence of R18. -/
def heldDigits {n : Nat} (rs : ResultState n) (e : Encoding) : List Digit :=
  (rs.digits.toList.take e.size).map digitOfNibble

/-- R29 (I1): `VALID = 1` if and only if `ENC != 0`; `VALID = 1` implies `CAUSE = 0`; `HASCODE = 1`
implies `VALID = 1`. -/
def ValidMatchesEncoding {n : Nat} (rs : ResultState n) : Prop :=
  (rs.valid = true ↔ rs.enc ≠ 0) ∧ (rs.valid = true → rs.cause = 0) ∧
  (rs.hascode = true → rs.valid = true)

/-- R29 (I2): a held code is made of digits, ends in its own check digit, and is followed by
zeros. -/
def HeldCodeIsValid {n : Nat} (rs : ResultState n) : Prop :=
  rs.hascode = true → ∀ e : Encoding, rs.enc = e.code →
    (∀ (i : Nat) (h : i < 14), i < e.size → rs.digits[i].toNat ≤ 9) ∧
    (heldDigits rs e).getD (e.size - 1) 0 =
      checkDigitOf e ((heldDigits rs e).take (e.size - 1)) ∧
    (∀ (i : Nat) (h : i < 14), e.size ≤ i → rs.digits[i] = 0)

/-- R29 (I3): `BITLEN` is 0 or the length of one of the two symbols, and a held bit sequence is the
one of the held code. -/
def HeldBitsMatchCode (cfg : Config) (rs : ResultState cfg.bitMax) : Prop :=
  rs.bitlen.toNat = 0 ∨
  (rs.hascode = true ∧ rs.enc = Encoding.ean8.code ∧ rs.bitlen.toNat = 67 + 2 * cfg.qz ∧
    rs.bits.toList.take rs.bitlen.toNat = bits8 cfg (heldDigits rs .ean8)) ∨
  (rs.hascode = true ∧ rs.enc = Encoding.ean13.code ∧ rs.bitlen.toNat = 95 + 2 * cfg.qz ∧
    rs.bits.toList.take rs.bitlen.toNat = bits13 cfg (heldDigits rs .ean13))

/-- R29 (I4): `BITPOS <= BITLEN`; `BITS` is 0 from `BITLEN` on; a module on `MOD` is the one before
`BITPOS`. -/
def SerializerInRange {n : Nat} (rs : ResultState n) : Prop :=
  rs.bitpos.toNat ≤ rs.bitlen.toNat ∧
  (∀ (i : Nat) (h : i < n), rs.bitlen.toNat ≤ i → rs.bits[i] = false) ∧
  (rs.modv = true →
    1 ≤ rs.bitpos.toNat ∧ rs.bits[rs.bitpos.toNat - 1]? = some rs.mod)

/-- R29 (I5): with `VALID = 0` there is no code, no digit and no bit sequence. -/
def InvalidIsEmpty {n : Nat} (rs : ResultState n) : Prop :=
  rs.valid = false →
    rs.hascode = false ∧ rs.enc = 0 ∧ rs.check = 0 ∧ rs.bitlen = 0 ∧
    rs.digits = Vector.replicate 14 0

/-- R16: the codes that `CAUSE` takes; 7 is never produced. -/
def CauseIsNamed {n : Nat} (rs : ResultState n) : Prop := rs.cause.toNat ≤ 6

/-- R18, R19: `CHECK` and every element of `DIGITS` hold a digit. -/
def ElementsAreDigits {n : Nat} (rs : ResultState n) : Prop :=
  rs.check.toNat ≤ 9 ∧ ∀ (i : Nat) (h : i < 14), rs.digits[i].toNat ≤ 9

/-- R18: with `HASCODE = 0` every element of `DIGITS` is 0. -/
def DigitsNeedCode {n : Nat} (rs : ResultState n) : Prop :=
  rs.hascode = false → rs.digits = Vector.replicate 14 0

/-- The state invariants of R29, with what R16, R18 and R19 add to them, for a block with the given
parameters. -/
structure ResultInv (cfg : Config) (rs : ResultState cfg.bitMax) : Prop where
  validMatchesEncoding : ValidMatchesEncoding rs
  heldCodeIsValid : HeldCodeIsValid rs
  heldBitsMatchCode : HeldBitsMatchCode cfg rs
  serializerInRange : SerializerInRange rs
  invalidIsEmpty : InvalidIsEmpty rs
  causeIsNamed : CauseIsNamed rs
  elementsAreDigits : ElementsAreDigits rs
  digitsNeedCode : DigitsNeedCode rs

/-- The invariant of the machine. -/
def MachineInv (s : State) : Prop := ResultInv config s.rs

/-- A run of `k` steps from `s` that stops nowhere and ends in a state with the invariant. -/
def SafeRun (s : State) (k : Nat) : Prop := ∃ t : State, core.run k s = .next t ∧ MachineInv t

/-! ### Operands and results, in the terms of the rules -/

/-- The operands `LEN` and `CHARS` carry the string `s` (R54): `LEN` is its length, and `CHARS[i]`
is `s[i]` for every index that both have. -/
def Carries (o : Operands) (s : List Byte) : Prop :=
  o.len.toNat = s.length ∧
  ∀ (i : Nat) (h : i < 16) (hs : i < s.length), o.chars[i] = s[i]

/-- A digit sequence as a string of ASCII characters (R18, R55). -/
def asText (g : List Digit) : List Byte := g.map digitChar

/-- `NOP` and `SHIFT` are not executing commands; every other command is (R15, R22). -/
def Executing : Instr → Prop
  | .nop _ => False
  | .shift _ => False
  | _ => True

/-- A result state that shows a code and a digit and nothing else: `VALID`, `ENC`, `HASCODE`,
`DIGITS` and `CHECK` are written, every other register is 0. -/
def shownCode (e : Encoding) (g : List Digit) (check : Digit) : ResultState config.bitMax where
  valid := true
  cause := 0
  enc := e.code
  hascode := true
  digits := Vector.ofFn fun i => BitVec.ofNat 4 (g.getD i.val 0).val
  check := BitVec.ofNat 4 check.val
  bits := Vector.replicate config.bitMax false
  bitlen := 0
  bitpos := 0
  mod := false
  modv := false

/-- A result state that shows a digit and its encoding and nothing else. -/
def shownDigit (e : Encoding) (check : Digit) : ResultState config.bitMax where
  valid := true
  cause := 0
  enc := e.code
  hascode := false
  digits := Vector.replicate 14 0
  check := BitVec.ofNat 4 check.val
  bits := Vector.replicate config.bitMax false
  bitlen := 0
  bitpos := 0
  mod := false
  modv := false

/-- A result state that shows a code and its bit sequence. -/
def shownSymbol (e : Encoding) (g : List Digit) (check : Digit) (b : BitSeq) :
    ResultState config.bitMax :=
  { shownCode e g check with
    bits := Vector.ofFn fun i => b.getD i.val false
    bitlen := BitVec.ofNat 8 b.length }

/-- A result state of a failure: `CAUSE` holds the code and every other register is 0 (R127). -/
def shownFailure (code : BitVec 3) : ResultState config.bitMax where
  valid := false
  cause := code
  enc := 0
  hascode := false
  digits := Vector.replicate 14 0
  check := 0
  bits := Vector.replicate config.bitMax false
  bitlen := 0
  bitpos := 0
  mod := false
  modv := false

/-- `len` elements of a sequence from index `start`. -/
def slice (b : BitSeq) (start len : Nat) : BitSeq := (b.drop start).take len

/-- The number of maximal runs of the module `v` in a sequence, after a module `before`. -/
def runsOf (v : Bool) : (before : Bool) → BitSeq → Nat
  | _, [] => 0
  | before, b :: bs => (if b = v ∧ before ≠ v then 1 else 0) + runsOf v b bs

end Sys2Proof
end

