-- ==== Sys2Proof/Certificates/Slice0/Obligations.lean ====
section
/-! DEFINITION. The statements for the provers.  Each docstring names the rule of `spec/` that the
statement formalises or rests on. -/

open Sys2Proof Sys2Proof.Machine

/-! ### Encoding -/

/-- R50, R52: no bit of a command is lost between the encoder and the decoder. -/
def Obligations.DecodeInvertsEncode : Prop :=
  ∀ i : Instr, i.wellFormed = true → decodeWord (encodeWord i) = i

/-- R50, R52, R53: every 176-bit word is a well-formed command, and encoding that command gives the
word back. -/
def Obligations.EncodeInvertsDecode : Prop :=
  ∀ w : CmdWord, (decodeWord w).wellFormed = true ∧ encodeWord (decodeWord w) = w

/-- R50: a command is 22 bytes, and a byte string that begins with them decodes to the command and
the bytes after it. -/
def Obligations.ByteDecoderInvertsByteEncoder : Prop :=
  ∀ (i : Instr) (rest : List Byte), i.wellFormed = true →
    (encode i).length = 22 ∧ decode (encode i ++ rest) = .ok (i, rest)

/-- R50: there is no shorter form. -/
def Obligations.ShortByteStringsAreRejected : Prop :=
  ∀ bs : List Byte, bs.length < 22 → decode bs = .error (.shortWord bs.length)

/-- R50: the fields of a command word, each at the place the rule's table gives it. -/
def Obligations.CommandWordFields : Prop :=
  ∀ w : CmdWord,
    (decodeWord w).opcode = w.extractLsb' 0 8 ∧
    (decodeWord w).operands.len = w.extractLsb' 8 8 ∧
    (decodeWord w).operands.data.toNat =
      (w.extractLsb' 16 8).toNat + 256 * (w.extractLsb' 24 8).toNat +
      65536 * (w.extractLsb' 32 8).toNat + 16777216 * (w.extractLsb' 40 8).toNat ∧
    ∀ (i : Nat) (h : i < 16),
      (decodeWord w).operands.chars[i] = w.extractLsb' (8 * (6 + i)) 8

/-- R52: every value of `OP` matches exactly one row of the opcode table. -/
def Obligations.EveryOpcodeMatchesOneRow : Prop :=
  ∀ op : Byte, (opcodeTable.filter fun r => r.admits op).length = 1

/-- R50, R52: words printed in 95_test_vectors.md decode to the commands printed beside them. -/
def Obligations.PrintedWordsDecode : Prop :=
  decode [0x01, 0x0C, 0, 0, 0, 0, 0x34, 0x30, 0x30, 0x36, 0x33, 0x38, 0x31, 0x33, 0x33, 0x33, 0x39,
    0x33, 0, 0, 0, 0] =
    .ok (.parse ⟨12, 0, #v[0x34, 0x30, 0x30, 0x36, 0x33, 0x38, 0x31, 0x33, 0x33, 0x33, 0x39, 0x33,
      0, 0, 0, 0]⟩, []) ∧
  decode [0x07, 0x06, 0xE7, 0x03, 0, 0, 0x31, 0x32, 0x33, 0x34, 0x35, 0x36, 0, 0, 0, 0, 0, 0, 0, 0,
    0, 0] =
    .ok (.embed ⟨6, 999, #v[0x31, 0x32, 0x33, 0x34, 0x35, 0x36, 0, 0, 0, 0, 0, 0, 0, 0, 0, 0]⟩,
      []) ∧
  decode [0x2A, 0x03, 0, 0, 0, 0, 0x31, 0x32, 0x33, 0, 0, 0, 0, 0, 0, 0, 0, 0, 0, 0, 0, 0] =
    .ok (.reserved203F 0x2A ⟨3, 0, #v[0x31, 0x32, 0x33, 0, 0, 0, 0, 0, 0, 0, 0, 0, 0, 0, 0, 0]⟩,
      [])

/-! ### The step -/

/-- R144: at an edge with `rst = 1` the result state becomes `RS0`; otherwise with `cmd_valid = 1`
the command on `cmd_word` executes; otherwise `RS` is unchanged.  That the edges are a list in the
state, each consumed by its step, and that an exhausted list is an idle edge, are the model's
(log entry 1). -/
def Obligations.StepRunsTheDecodedCommand : Prop :=
  (∀ (s : State) (e : Edge) (rest : List Edge), s.edges = e :: rest →
    (e.rst = true →
      step s = .next ⟨ResultState.cleared config.bitMax, rest⟩) ∧
    (e.rst = false → e.cmdValid = true →
      step s = exec (decodeWord e.cmdWord) { s with edges := rest }) ∧
    (e.rst = false → e.cmdValid = false → step s = .next { s with edges := rest })) ∧
  ∀ s : State, s.edges = [] → step s = .next s

/-- R140: reset wins over a command presented at the same edge and sets every register to 0; the
state after reset is that one. -/
def Obligations.ResetClearsEveryRegister : Prop :=
  ∀ (s : State) (w : CmdWord) (v : Bool) (rest : List Edge), s.edges = ⟨true, v, w⟩ :: rest →
    ∃ t : State, step s = .next t ∧ t.edges = rest ∧ t.rs = State.reset.rs ∧
      t.rs.valid = false ∧ t.rs.cause = 0 ∧ t.rs.enc = 0 ∧ t.rs.hascode = false ∧
      (∀ (i : Nat) (h : i < 14), t.rs.digits[i] = 0) ∧ t.rs.check = 0 ∧
      (∀ (i : Nat) (h : i < config.bitMax), t.rs.bits[i] = false) ∧ t.rs.bitlen = 0 ∧
      t.rs.bitpos = 0 ∧ t.rs.mod = false ∧ t.rs.modv = false ∧ statusPort t.rs = 0x00

/-! ### Rules of the whole machine -/

/-- R29 with R16, R18 and R19: the invariants hold after reset. -/
def Obligations.ResetMeetsTheInvariant : Prop := MachineInv State.reset

/-- R29: every step keeps the invariants, whatever the host drives. -/
def Obligations.StepKeepsTheInvariant : Prop :=
  ∀ s t : State, MachineInv s → step s = .next t → MachineInv t

/-- R123, R132, R150: from every state with the invariants, and so from reset under any sequence of
edges, no run of any length stops, and it ends in a state with the invariants. -/
def Obligations.NoRunEverStops : Prop :=
  (∀ (s : State) (k : Nat), MachineInv s → SafeRun s k) ∧
  ∀ (edges : List Edge) (k : Nat), SafeRun { State.reset with edges := edges } k

/-- R146: for every state and every command there is a next state, and a command leaves the edges
that the host has still to drive as they are. -/
def Obligations.EveryCommandCompletes : Prop :=
  ∀ (i : Instr) (s : State), ∃ rs : ResultState config.bitMax, exec i s = .next ⟨rs, s.edges⟩

/-- R146 (a), (b): the result state of an executing command is a function of the command alone. -/
def Obligations.ExecutingCommandsForgetHistory : Prop :=
  ∀ (i : Instr) (s₁ s₂ t₁ t₂ : State), Executing i → exec i s₁ = .next t₁ →
    exec i s₂ = .next t₂ → t₁.rs = t₂.rs

/-- R146 (d): `SHIFT` reads `BITS`, `BITLEN` and `BITPOS` and nothing else. -/
def Obligations.ShiftReadsOnlyTheSerializer : Prop :=
  ∀ (o₁ o₂ : Operands) (s₁ s₂ t₁ t₂ : State), s₁.rs.bits = s₂.rs.bits →
    s₁.rs.bitlen = s₂.rs.bitlen → s₁.rs.bitpos = s₂.rs.bitpos →
    exec (.shift o₁) s₁ = .next t₁ → exec (.shift o₂) s₂ = .next t₂ →
    t₁.rs.mod = t₂.rs.mod ∧ t₁.rs.modv = t₂.rs.modv ∧ t₁.rs.bitpos = t₂.rs.bitpos

/-- R127: whatever the executing command was, a result state with `VALID = 0` is `RS0` with `CAUSE`
set, 1 to 6 but after `CLEAR`; `status` is twice the cause, and nothing else changes. -/
def Obligations.FailureLeavesOnlyTheCause : Prop :=
  ∀ (i : Instr) (s t : State), Executing i → exec i s = .next t → t.rs.valid = false →
    t.rs = shownFailure t.rs.cause ∧ t.edges = s.edges ∧
    ((∀ o : Operands, i ≠ .clear o) → 1 ≤ t.rs.cause.toNat) ∧ t.rs.cause.toNat ≤ 6 ∧
    (statusPort t.rs).toNat = 2 * t.rs.cause.toNat

/-- R24: the table of which command writes which register, row by row: `NOP` and `SHIFT`; `CLEAR`;
the six commands on success; the six on failure; the reserved opcodes. -/
def Obligations.RegisterWriteTable : Prop :=
  ∀ (o : Operands) (op : Byte) (s : State),
    exec (.nop o) s = .next s ∧
    (∃ t : State, exec (.shift o) s = .next t ∧ t.edges = s.edges ∧ t.rs =
      { s.rs with bitpos := t.rs.bitpos, mod := t.rs.mod, modv := t.rs.modv }) ∧
    exec (.clear o) s = .next ⟨ResultState.cleared config.bitMax, s.edges⟩ ∧
    (∀ i ∈ [Instr.parse o, .ichk5 o, .ichk4 o, .embed o], ∃ t : State, exec i s = .next t ∧
      t.edges = s.edges ∧ (t.rs.valid = true → t.rs =
        { ResultState.cleared config.bitMax with
          valid := true, enc := t.rs.enc, hascode := true, digits := t.rs.digits,
          check := t.rs.check })) ∧
    (∀ i ∈ [Instr.ichk5 o, .ichk4 o, .embed o], ∀ t : State, exec i s = .next t →
      t.rs.valid = true → t.rs.enc = Encoding.ean13.code) ∧
    (∃ t : State, exec (.chkdig o) s = .next t ∧ t.edges = s.edges ∧ (t.rs.valid = true → t.rs =
      { ResultState.cleared config.bitMax with
        valid := true, enc := t.rs.enc, check := t.rs.check })) ∧
    (∃ t : State, exec (.encode o) s = .next t ∧ t.edges = s.edges ∧ (t.rs.valid = true → t.rs =
      { ResultState.cleared config.bitMax with
        valid := true, enc := t.rs.enc, hascode := true, digits := t.rs.digits,
        check := t.rs.check, bits := t.rs.bits, bitlen := t.rs.bitlen })) ∧
    (∀ i ∈ [Instr.parse o, .chkdig o, .encode o, .ichk5 o, .ichk4 o, .embed o], ∀ t : State,
      exec i s = .next t → t.rs.valid = false → t.rs.cause ≠ 0 ∧ t.rs =
        { ResultState.cleared config.bitMax with cause := t.rs.cause }) ∧
    ∀ i ∈ [Instr.reserved0909 o, .reserved0A0B op o, .reserved0C0F op o, .reserved101F op o,
        .reserved203F op o, .reserved407F op o, .reserved80FF op o],
      exec i s = .next
        ⟨{ ResultState.cleared config.bitMax with cause := Cause.illegalOp.code }, s.edges⟩

/-- R129, the blank cells: the causes that a command cannot report, for any operands and any
parameters. -/
def Obligations.CausesThatCannotOccur : Prop :=
  ∀ (cfg : Config) (o : Operands),
    ((parseResult cfg o).cause ∈ [0, 1, 2, 3] ∧
      ((parseResult cfg o).cause = 3 → o.len ∈ [8, 13, 14, 16])) ∧
    (chkdigResult cfg o).cause ∈ [0, 1, 2] ∧
    (encodeResult cfg o).cause ∈ [0, 1, 2, 3] ∧
    ((ichk5Result cfg o).cause ∈ [0, 1, 2, 3, 4, 6] ∧
      ((ichk5Result cfg o).cause = 3 → o.len = 13) ∧
      ((ichk5Result cfg o).cause = 4 → cfg.pw ≠ some pwTables) ∧
      ((ichk5Result cfg o).cause = 6 ↔ cfg.hasPw = false)) ∧
    ((ichk4Result cfg o).cause ∈ [0, 1, 2, 3, 6] ∧
      ((ichk4Result cfg o).cause = 3 → o.len = 13) ∧
      ((ichk4Result cfg o).cause = 6 ↔ cfg.hasPw = false)) ∧
    ((embedResult cfg o).cause ∈ [0, 1, 2, 4, 5, 6] ∧
      ((embedResult cfg o).cause = 4 → cfg.pw ≠ some pwTables) ∧
      ((embedResult cfg o).cause = 6 ↔ cfg.hasPw = false))

/-- R51: a field that a command does not use has no effect. -/
def Obligations.UnusedFieldsAreIgnored : Prop :=
  (∀ (o o' : Operands) (op : Byte) (s : State),
    exec (.nop o) s = exec (.nop o') s ∧ exec (.shift o) s = exec (.shift o') s ∧
    exec (.clear o) s = exec (.clear o') s ∧
    exec (.reserved0909 o) s = exec (.reserved0909 o') s ∧
    exec (.reserved0A0B op o) s = exec (.reserved0A0B op o') s ∧
    exec (.reserved0C0F op o) s = exec (.reserved0C0F op o') s ∧
    exec (.reserved101F op o) s = exec (.reserved101F op o') s ∧
    exec (.reserved203F op o) s = exec (.reserved203F op o') s ∧
    exec (.reserved407F op o) s = exec (.reserved407F op o') s ∧
    exec (.reserved80FF op o) s = exec (.reserved80FF op o') s) ∧
  (∀ (o o' : Operands) (s : State), o.len = o'.len →
    (∀ (i : Nat) (h : i < 16), i < o.len.toNat → o.chars[i] = o'.chars[i]) →
    exec (.parse o) s = exec (.parse o') s ∧ exec (.chkdig o) s = exec (.chkdig o') s ∧
    exec (.encode o) s = exec (.encode o') s ∧ exec (.ichk5 o) s = exec (.ichk5 o') s ∧
    exec (.ichk4 o) s = exec (.ichk4 o') s) ∧
  ∀ (o o' : Operands) (s : State), o.len = o'.len → o.data = o'.data →
    (6 ≤ o.len.toNat → ∀ (i : Nat) (h : i < 6), o.chars[i] = o'.chars[i]) →
    exec (.embed o) s = exec (.embed o') s

/-- R54: the characters at index 16 and above, which no command word carries, have no influence on
any function of the string operand.  The proof may not rest on what the model puts in their place
(log entry 4). -/
def Obligations.UncarriedCharactersNeverMatter : Prop :=
  ∀ (cfg : Config) (pw : PwTables) (o : Operands) (t : List Byte) (data : Nat), Carries o t →
    Carries o (operandString o) ∧
    parse cfg (operandString o) = parse cfg t ∧
    checkDigit cfg (operandString o) = checkDigit cfg t ∧
    encodeString cfg (operandString o) = encodeString cfg t ∧
    embedDataInEan cfg pw (operandString o) data = embedDataInEan cfg pw t data

/-! ### The CHK unit -/

/-- R70, R71, R72, R73: the three formulas as written, and `cd(enc, p)`. -/
def Obligations.CheckDigitFormulas : Prop :=
  ∀ p0 p1 p2 p3 p4 p5 p6 p7 p8 p9 p10 p11 p12 : Digit,
    (cd8 [p0, p1, p2, p3, p4, p5, p6]).val =
      (10 - ((p1.val + p3.val + p5.val) + 3 * (p0.val + p2.val + p4.val + p6.val)) % 10) % 10 ∧
    (cd13 [p0, p1, p2, p3, p4, p5, p6, p7, p8, p9, p10, p11]).val =
      (10 - (3 * (p1.val + p3.val + p5.val + p7.val + p9.val + p11.val) +
        (p0.val + p2.val + p4.val + p6.val + p8.val + p10.val)) % 10) % 10 ∧
    (cd14 [p0, p1, p2, p3, p4, p5, p6, p7, p8, p9, p10, p11, p12]).val =
      (10 - ((p1.val + p3.val + p5.val + p7.val + p9.val + p11.val) +
        3 * (p0.val + p2.val + p4.val + p6.val + p8.val + p10.val + p12.val)) % 10) % 10 ∧
    checkDigitOf .ean8 = cd8 ∧ checkDigitOf .ean13 = cd13 ∧ checkDigitOf .ean14 = cd14

/-- R74: each formula gives weight 3 to the odd positions from the right end of the payload, and the
weighted sum of a complete code, its check digit with weight 1, is a multiple of 10. -/
def Obligations.WeightsAlternateFromTheRight : Prop :=
  ∀ (e : Encoding) (p : List Digit), p.length = e.size - 1 →
    (checkDigitOf e p).val =
      (10 - ((List.range p.length).map fun i =>
        (if (p.length - 1 - i) % 2 = 0 then 3 else 1) * (p.getD i 0).val).sum % 10) % 10 ∧
    ((List.range e.size).map fun i => (if (e.size - 1 - i) % 2 = 1 then 3 else 1) *
      ((p ++ [checkDigitOf e p]).getD i 0).val).sum % 10 = 0

/-- R57: the length dispatch table. -/
def Obligations.LengthDispatchTable : Prop :=
  classify 7 = some ⟨.ean8, .payload, 0⟩ ∧ classify 8 = some ⟨.ean8, .full, 0⟩ ∧
  classify 12 = some ⟨.ean13, .payload, 0⟩ ∧ classify 13 = some ⟨.ean13, .full, 0⟩ ∧
  classify 14 = some ⟨.ean14, .full, 0⟩ ∧ classify 16 = some ⟨.ean14, .full, 2⟩ ∧
  ∀ n : Nat, n ∉ [7, 8, 12, 13, 14, 16] → classify n = none

/-- R57, R90, R105, R126 (`LENGTH`): a command fails with `LENGTH` at every length it does not
accept, whatever the characters are. -/
def Obligations.UnacceptedLengthsFail : Prop :=
  ∀ (o : Operands) (s : State),
    (o.len ∉ [7, 8, 12, 13, 14, 16] →
      exec (.parse o) s = .next ⟨shownFailure 1, s.edges⟩ ∧
      exec (.chkdig o) s = .next ⟨shownFailure 1, s.edges⟩) ∧
    (o.len ∉ [8, 13] → exec (.encode o) s = .next ⟨shownFailure 1, s.edges⟩) ∧
    (o.len ∉ [12, 13] →
      exec (.ichk5 o) s = .next ⟨shownFailure 1, s.edges⟩ ∧
      exec (.ichk4 o) s = .next ⟨shownFailure 1, s.edges⟩)

/-- R55, R128: at an accepted length a character that is not `0x30` to `0x39`, among those the
string has, makes the command fail with `NONNUMERIC`. -/
def Obligations.NonDigitCharactersFail : Prop :=
  ∀ (o : Operands) (s : State) (i : Nat) (h : i < 16), i < o.len.toNat →
    ¬(0x30 ≤ o.chars[i].toNat ∧ o.chars[i].toNat ≤ 0x39) →
    (o.len ∈ [7, 8, 12, 13, 14, 16] →
      exec (.parse o) s = .next ⟨shownFailure 2, s.edges⟩ ∧
      exec (.chkdig o) s = .next ⟨shownFailure 2, s.edges⟩) ∧
    (o.len ∈ [8, 13] → exec (.encode o) s = .next ⟨shownFailure 2, s.edges⟩) ∧
    (o.len ∈ [12, 13] →
      exec (.ichk5 o) s = .next ⟨shownFailure 2, s.edges⟩ ∧
      exec (.ichk4 o) s = .next ⟨shownFailure 2, s.edges⟩)

/-- R75, R77, R80 (round trip): `PARSE` of a payload of 7 or 12 digits shows the payload with its
check digit appended. -/
def Obligations.ParseCompletesAPayload : Prop :=
  ∀ (e : Encoding) (p : List Digit) (o : Operands) (s : State), e ≠ .ean14 →
    p.length = e.size - 1 → Carries o (asText p) →
    exec (.parse o) s = .next ⟨shownCode e (p ++ [checkDigitOf e p]) (checkDigitOf e p), s.edges⟩

/-- R75, R77: `PARSE` of a full code, after the two dropped digits of the wrapper form where there
are any, shows the code when its last digit is the computed check digit and fails with `CHECKSUM`
otherwise. -/
def Obligations.ParseChecksAFullCode : Prop :=
  ∀ (e : Encoding) (dropped p : List Digit) (last : Digit) (o : Operands) (s : State),
    (dropped = [] ∨ e = .ean14 ∧ dropped.length = 2) → p.length = e.size - 1 →
    Carries o (asText (dropped ++ p ++ [last])) →
    exec (.parse o) s = .next
      ⟨if last = checkDigitOf e p then shownCode e (p ++ [last]) last else shownFailure 3, s.edges⟩

/-- R76, R78: `CHKDIG` shows the check digit of the payload, for a payload-only form, a full form
whatever its last digit, and the wrapper form; `HASCODE` and `DIGITS` stay 0. -/
def Obligations.ChkdigComputesTheCheckDigit : Prop :=
  ∀ (e : Encoding) (dropped p last : List Digit) (o : Operands) (s : State),
    (dropped = [] ∧ last.length = 1 ∨ dropped = [] ∧ last = [] ∧ e ≠ .ean14 ∨
      dropped.length = 2 ∧ last.length = 1 ∧ e = .ean14) →
    p.length = e.size - 1 → Carries o (asText (dropped ++ p ++ last)) →
    exec (.chkdig o) s = .next ⟨shownDigit e (checkDigitOf e p), s.edges⟩

/-- R80: changing any one digit of a valid code to another digit makes `PARSE` fail with
`CHECKSUM`. -/
def Obligations.SingleDigitErrorIsDetected : Prop :=
  ∀ (e : Encoding) (p : List Digit) (j : Nat) (d : Digit) (o : Operands) (s : State),
    p.length = e.size - 1 → j < e.size → d ≠ (p ++ [checkDigitOf e p]).getD j 0 →
    Carries o (asText ((p ++ [checkDigitOf e p]).set j d)) →
    exec (.parse o) s = .next ⟨shownFailure 3, s.edges⟩

/-- R80 (checksum idempotence): parsing the code that a successful `PARSE` shows gives the same
state again. -/
def Obligations.ParseOfAParsedCodeIsTheSame : Prop :=
  ∀ (o o' : Operands) (e : Encoding) (s t : State), exec (.parse o) s = .next t →
    t.rs.valid = true → t.rs.enc = e.code → Carries o' (asText (heldDigits t.rs e)) →
    exec (.parse o') t = .next t

/-- R80 (wrapper form): two digit characters before a 14-character string change nothing. -/
def Obligations.WrapperFormIsItsLastFourteen : Prop :=
  ∀ (a b : Byte) (c : List Byte) (o o' : Operands) (s : State), c.length = 14 →
    isDigit a = true → isDigit b = true → Carries o c → Carries o' (a :: b :: c) →
    exec (.parse o') s = exec (.parse o) s ∧ exec (.chkdig o') s = exec (.chkdig o) s

/-! ### The ENC unit -/

/-- R106, R107, R108: both layouts, group by group at the indices of R108, the symbol core, and
their lengths, for any tables and any quiet zone; and the two lengths of this hardware.  Where `g`
has not 13 or 8 digits the layout reads the model's 0 for a missing digit (log entry 9). -/
def Obligations.SymbolLayout : Prop :=
  (∀ g : List Digit, (bits13 config g).length = 113 ∧ (bits8 config g).length = 85) ∧
  ∀ (cfg : Config) (g : List Digit),
    ((bits13 cfg g).length = 95 + 2 * cfg.qz ∧
      slice (bits13 cfg g) 0 cfg.qz = List.replicate cfg.qz false ∧
      slice (bits13 cfg g) cfg.qz 3 = [true, false, true] ∧
      (∀ j < 6, slice (bits13 cfg g) (cfg.qz + 3 + 7 * j) 7 =
        if cfg.parity[g.getD 0 0].getMsbD j = false then patternBits cfg.lodd[g.getD (1 + j) 0]
        else patternBits cfg.leven[g.getD (1 + j) 0]) ∧
      slice (bits13 cfg g) (cfg.qz + 45) 5 = [false, true, false, true, false] ∧
      (∀ j < 6, slice (bits13 cfg g) (cfg.qz + 50 + 7 * j) 7 =
        patternBits cfg.right[g.getD (7 + j) 0]) ∧
      slice (bits13 cfg g) (cfg.qz + 92) 3 = [true, false, true] ∧
      slice (bits13 cfg g) (cfg.qz + 95) cfg.qz = List.replicate cfg.qz false ∧
      slice (bits13 cfg g) cfg.qz 95 = core13 cfg g) ∧
    ((bits8 cfg g).length = 67 + 2 * cfg.qz ∧
      slice (bits8 cfg g) 0 cfg.qz = List.replicate cfg.qz false ∧
      slice (bits8 cfg g) cfg.qz 3 = [true, false, true] ∧
      (∀ j < 4, slice (bits8 cfg g) (cfg.qz + 3 + 7 * j) 7 =
        patternBits cfg.lodd[g.getD j 0]) ∧
      slice (bits8 cfg g) (cfg.qz + 31) 5 = [false, true, false, true, false] ∧
      (∀ j < 4, slice (bits8 cfg g) (cfg.qz + 36 + 7 * j) 7 =
        patternBits cfg.right[g.getD (4 + j) 0]) ∧
      slice (bits8 cfg g) (cfg.qz + 64) 3 = [true, false, true] ∧
      slice (bits8 cfg g) (cfg.qz + 67) cfg.qz = List.replicate cfg.qz false ∧
      slice (bits8 cfg g) cfg.qz 67 = core8 cfg g)

/-- R109: `ENCODE` of a full EAN-13 or EAN-8 shows the code and its bit sequence, 113 or 85 modules
long, when the last digit is the computed check digit, and fails with `CHECKSUM` otherwise. -/
def Obligations.EncodeShowsTheSymbol : Prop :=
  ∀ (p : List Digit) (last : Digit) (o : Operands) (s : State), Carries o (asText (p ++ [last])) →
    (p.length = 12 → exec (.encode o) s = .next
      ⟨if last = cd13 p then
          { shownSymbol .ean13 (p ++ [last]) last (bits13 config (p ++ [last])) with bitlen := 113 }
        else shownFailure 3, s.edges⟩) ∧
    (p.length = 7 → exec (.encode o) s = .next
      ⟨if last = cd8 p then
          { shownSymbol .ean8 (p ++ [last]) last (bits8 config (p ++ [last])) with bitlen := 85 }
        else shownFailure 3, s.edges⟩)

/-- R112: the asymmetry between `ENCODE` and `PARSE`: a payload without its check digit is
completed by `PARSE` and refused by `ENCODE` with `LENGTH`. -/
def Obligations.EncodeRefusesAPayload : Prop :=
  ∀ (e : Encoding) (p : List Digit) (o : Operands) (s : State), e ≠ .ean14 →
    p.length = e.size - 1 → Carries o (asText p) →
    exec (.encode o) s = .next ⟨shownFailure 1, s.edges⟩ ∧
    ∃ t : State, exec (.parse o) s = .next t ∧ t.rs.valid = true

/-- R109: on success `ENCODE` shows the validated code exactly as `PARSE` of the same string
would. -/
def Obligations.EncodeShowsTheCodeOfParse : Prop :=
  ∀ (o : Operands) (s t : State), exec (.encode o) s = .next t → t.rs.valid = true →
    exec (.parse o) s = .next
      ⟨{ t.rs with bits := Vector.replicate config.bitMax false, bitlen := 0 }, t.edges⟩

/-- R110: `SHIFT` with `BITPOS < BITLEN` delivers `BITS[BITPOS]` and moves on, and otherwise delivers
nothing; every other register is kept.  The second clause, for a position that `BITS` has no element
at, is the model's choice (log entry 3): `SHIFT` still completes, with some module. -/
def Obligations.ShiftDeliversTheNextModule : Prop :=
  ∀ (o : Operands) (s : State),
    (∀ h : s.rs.bitpos.toNat < config.bitMax, s.rs.bitpos.toNat < s.rs.bitlen.toNat →
      exec (.shift o) s = .next
        ⟨{ s.rs with mod := s.rs.bits[s.rs.bitpos.toNat], modv := true, bitpos := s.rs.bitpos + 1 },
          s.edges⟩) ∧
    (config.bitMax ≤ s.rs.bitpos.toNat → s.rs.bitpos.toNat < s.rs.bitlen.toNat →
      ∃ m : Bool, exec (.shift o) s = .next
        ⟨{ s.rs with mod := m, modv := true, bitpos := s.rs.bitpos + 1 }, s.edges⟩) ∧
    (s.rs.bitlen.toNat ≤ s.rs.bitpos.toNat →
      exec (.shift o) s = .next ⟨{ s.rs with mod := false, modv := false }, s.edges⟩)

/-- R111 (serializer), R110: from a state with the invariants and the serializer at the start, the
first `BITLEN` `SHIFT` commands deliver `BITS[0]`, `BITS[1]`, ... with `MODV = 1`, every later one
delivers `MOD = 0` and `MODV = 0`, and after `k` of them `BITPOS = min(k, BITLEN)`. -/
def Obligations.SerializerDeliversTheSequence : Prop :=
  ∀ (o : Operands) (s : State) (n : Nat) (rest : List Edge), MachineInv s → s.rs.bitpos = 0 →
    s.edges = List.replicate n (commandEdge (encodeWord (.shift o))) ++ rest →
    ∀ k ≤ n, ∃ t : State, core.run k s = .next t ∧
      t.rs = { s.rs with bitpos := t.rs.bitpos, mod := t.rs.mod, modv := t.rs.modv } ∧
      t.edges = List.replicate (n - k) (commandEdge (encodeWord (.shift o))) ++ rest ∧
      t.rs.bitpos.toNat = min k s.rs.bitlen.toNat ∧
      (0 < k → k ≤ s.rs.bitlen.toNat →
        t.rs.modv = true ∧ s.rs.bits[k - 1]? = some t.rs.mod) ∧
      (s.rs.bitlen.toNat < k → t.rs.modv = false ∧ t.rs.mod = false)

/-- R61: `SHIFTALL` yields the rest of the bit sequence in order and ends with `MODV = 0` at the end
of the sequence. -/
def Obligations.ShiftAllYieldsTheRest : Prop :=
  ∀ s : State, MachineInv s →
    (shiftAll s.rs).1 = (s.rs.bits.toList.take s.rs.bitlen.toNat).drop s.rs.bitpos.toNat ∧
    (shiftAll s.rs).2 = { s.rs with bitpos := s.rs.bitlen, mod := false, modv := false }

/-- R111 (injectivity): with the tables of this hardware, whose contents are presumed (log entry 7),
two different EAN-13 codes have different bit sequences, and so have two different EAN-8 codes. -/
def Obligations.DifferentCodesHaveDifferentSymbols : Prop :=
  (∀ g g' : List Digit, g.length = 13 → g'.length = 13 →
    bits13 config g = bits13 config g' → g = g') ∧
  ∀ g g' : List Digit, g.length = 8 → g'.length = 8 →
    bits8 config g = bits8 config g' → g = g'

/-- R111 (bar and space counts): with the tables of this hardware (log entry 7) the symbol core of an
EAN-13 has 30 bars and 29 spaces and begins and ends with a bar; for a list of another length the
layout reads the model's 0 for a missing digit (log entry 9). -/
def Obligations.Ean13CoreHasThirtyBars : Prop :=
  ∀ g : List Digit,
    runsOf true false (core13 config g) = 30 ∧ runsOf false true (core13 config g) = 29 ∧
    (core13 config g).head? = some true ∧ (core13 config g).getLast? = some true

/-- R34, R35, R36, R37: the structural facts printed after the pattern tables,
whose contents are presumed (log entry 7). -/
def Obligations.PatternTableFacts : Prop :=
  lutParity.toList.Nodup ∧ (∀ d : Digit, lutParity[d].getMsbD 0 = false) ∧
  (∀ d : Digit, d ≠ 0 →
    ((List.range 6).filter fun j => lutParity[d].getMsbD j).length = 3) ∧
  lutParity[(0 : Digit)] = 0 ∧
  (∀ d : Digit, lutRight[d] = ~~~lutLodd[d] ∧
    patternBits lutLeven[d] = (patternBits lutRight[d]).reverse ∧
    lutLodd[d].getMsbD 0 = false ∧ lutLodd[d].getMsbD 6 = true ∧
    lutLeven[d].getMsbD 0 = false ∧ lutLeven[d].getMsbD 6 = true ∧
    lutRight[d].getMsbD 0 = true ∧ lutRight[d].getMsbD 6 = false ∧
    ((patternBits lutLodd[d]).filter id).length % 2 = 1 ∧
    ((patternBits lutLeven[d]).filter id).length % 2 = 0 ∧
    ∀ b ∈ [patternBits lutLodd[d], patternBits lutLeven[d], patternBits lutRight[d]],
      runsOf true false b = 2 ∧ runsOf false true b = 2) ∧
  (lutLodd.toList ++ lutLeven.toList ++ lutRight.toList).Nodup

/-! ### The PW unit -/

/-- R38, R39, R40, R41: the closed forms of the weighting tables, and that each is a
permutation (log entry 7). -/
def Obligations.WeightTableClosedForms : Prop :=
  (∀ d : Digit,
    lutW2m[d].val = (2 * d.val - 2 * d.val / 10) % 10 ∧ lutW3[d].val = (3 * d.val) % 10 ∧
    lutW5p[d].val = (5 * d.val + 5 * d.val / 10) % 10 ∧
    lutW5m[d].val = (5 * d.val - 5 * d.val / 10) % 10) ∧
  lutW2m.toList.Nodup ∧ lutW3.toList.Nodup ∧ lutW5p.toList.Nodup ∧ lutW5m.toList.Nodup

/-- R42: the reverse table gives the smallest digit whose entry is `m`, and none exactly when there
is no such digit; for the table of this hardware (log entry 7) it is the printed list. -/
def Obligations.ReverseTableIsTheInverse : Prop :=
  (∀ (t : PwTables) (m k : Digit),
    w5mInv t m = some k ↔ t.w5m[k] = m ∧ ∀ j : Digit, j < k → t.w5m[j] ≠ m) ∧
  (∀ (t : PwTables) (m : Digit), w5mInv t m = none ↔ ∀ k : Digit, t.w5m[k] ≠ m) ∧
  (List.finRange 10).map (w5mInv pwTables) =
    [some 0, some 9, some 7, some 5, some 3, some 1, some 8, some 6, some 4, some 2]

/-- R91, R97: with the tables of this hardware (log entry 7) `ic5` never fails, and its value is the
one digit that makes the weighted sum a multiple of 10; a missing digit reads as the model's 0 (log
entry 9). -/
def Obligations.InternalChecksum5IsACongruence : Prop :=
  ∀ (g : List Digit) (k : Digit), ic5 pwTables g = some k ↔
    (lutW5p[g.getD 7 0].val + lutW2m[g.getD 8 0].val + lutW5m[g.getD 9 0].val +
      lutW5p[g.getD 10 0].val + lutW2m[g.getD 11 0].val + lutW5m[k].val) % 10 = 0

/-- R90, R94: `ICHK5` of a valid EAN-13, given with or without its check digit, shows the code and
its internal checksum under the tables of log entry 7; a wrong check digit fails with `CHECKSUM`. -/
def Obligations.Ichk5ShowsTheInternalChecksum : Prop :=
  ∀ (p last : List Digit) (o : Operands) (s : State), p.length = 12 → last.length ≤ 1 →
    Carries o (asText (p ++ last)) →
    (last = [] ∨ last = [cd13 p] →
      ∃ k : Digit, (lutW5p[p.getD 7 0].val + lutW2m[p.getD 8 0].val + lutW5m[p.getD 9 0].val +
          lutW5p[p.getD 10 0].val + lutW2m[p.getD 11 0].val + lutW5m[k].val) % 10 = 0 ∧
        exec (.ichk5 o) s = .next ⟨shownCode .ean13 (p ++ [cd13 p]) k, s.edges⟩) ∧
    (last ≠ [] → last ≠ [cd13 p] → exec (.ichk5 o) s = .next ⟨shownFailure 3, s.edges⟩)

/-- R90, R92, R95: `ICHK4` of a valid EAN-13, given with or without its check digit, shows the code
and three times the weighted sum modulo 10 under the tables of log entry 7; a wrong check digit
fails with `CHECKSUM`. -/
def Obligations.Ichk4ShowsTheInternalChecksum : Prop :=
  ∀ (p last : List Digit) (o : Operands) (s : State), p.length = 12 → last.length ≤ 1 →
    Carries o (asText (p ++ last)) →
    (last = [] ∨ last = [cd13 p] →
      exec (.ichk4 o) s = .next ⟨shownCode .ean13 (p ++ [cd13 p])
        (Fin.ofNat 10 ((lutW2m[p.getD 8 0].val + lutW2m[p.getD 9 0].val + lutW3[p.getD 10 0].val +
          lutW5m[p.getD 11 0].val) * 3)), s.edges⟩) ∧
    (last ≠ [] → last ≠ [cd13 p] → exec (.ichk4 o) s = .next ⟨shownFailure 3, s.edges⟩)

/-- R93, R96: `EMBED` of a template whose first six characters are digits, whatever follows them,
and of a number below the limit shows the template's six digits, the internal checksum, the five
digits of the number and the check digit (tables: log entry 7; the limit: log entry 12). -/
def Obligations.EmbedSynthesisesACode : Prop :=
  ∀ (p : List Digit) (o : Operands) (s : State), p.length = 6 → 6 ≤ o.len.toNat →
    (∀ (i : Nat) (h : i < 6), o.chars[i] = digitChar (p.getD i 0)) → o.data.toNat < 99999 →
    ∃ (k : Digit) (five : List Digit), five.length = 5 ∧
      ((five.getD 0 0).val * 10000 + (five.getD 1 0).val * 1000 + (five.getD 2 0).val * 100 +
        (five.getD 3 0).val * 10 + (five.getD 4 0).val = o.data.toNat) ∧
      (lutW5p[five.getD 0 0].val + lutW2m[five.getD 1 0].val + lutW5m[five.getD 2 0].val +
        lutW5p[five.getD 3 0].val + lutW2m[five.getD 4 0].val + lutW5m[k].val) % 10 = 0 ∧
      exec (.embed o) s = .next ⟨shownCode .ean13 (p ++ [k] ++ five ++ [cd13 (p ++ [k] ++ five)])
          (cd13 (p ++ [k] ++ five)), s.edges⟩

/-- R96, R128: the failures of `EMBED` in the order tested: `RANGE`, `LENGTH`, `NONNUMERIC`.  The limit
99999 is the literal of R7, which the spec calls unaudited (U3; log entry 12). -/
def Obligations.EmbedFailsInOrder : Prop :=
  ∀ (o : Operands) (s : State),
    (99999 ≤ o.data.toNat → exec (.embed o) s = .next ⟨shownFailure 5, s.edges⟩) ∧
    (o.data.toNat < 99999 → o.len.toNat < 6 →
      exec (.embed o) s = .next ⟨shownFailure 1, s.edges⟩) ∧
    (o.data.toNat < 99999 → 6 ≤ o.len.toNat →
      (∃ (i : Nat) (h : i < 6), ¬(0x30 ≤ o.chars[i].toNat ∧ o.chars[i].toNat ≤ 0x39)) →
      exec (.embed o) s = .next ⟨shownFailure 2, s.edges⟩)

/-- R97 (embedding is consistent): the code that a successful `EMBED` shows is parsed to the very
same state, and `ICHK5` of it gives the digit at index 6. -/
def Obligations.EmbeddedCodeIsConsistent : Prop :=
  ∀ (o o' : Operands) (s t : State), exec (.embed o) s = .next t → t.rs.valid = true →
    Carries o' (asText (heldDigits t.rs .ean13)) →
    exec (.parse o') t = .next t ∧
    exec (.ichk5 o') t = .next ⟨{ t.rs with check := t.rs.digits[6] }, t.edges⟩

/-- R97 (slices ignored): `ic5` depends only on the digits 7 to 11, `ic4` only on 8 to 11, for any
tables; a missing digit reads as the model's 0 (log entry 9). -/
def Obligations.InternalChecksumsReadOnlyTheirSlice : Prop :=
  ∀ (t : PwTables) (g g' : List Digit),
    ((∀ i : Nat, 7 ≤ i → i ≤ 11 → g.getD i 0 = g'.getD i 0) → ic5 t g = ic5 t g') ∧
    ((∀ i : Nat, 8 ≤ i → i ≤ 11 → g.getD i 0 = g'.getD i 0) → ic4 t g = ic4 t g')

/-- R91, R94, R96: with tables whose `W5M` lacks the computed value, `ICHK5` and `EMBED` fail with
`INVMISS` and show nothing else. -/
def Obligations.InverseMissFails : Prop :=
  ∀ (cfg : Config) (t : PwTables), cfg.pw = some t →
    (∀ (o : Operands) (b : BarcodeValue), validatedEan13 cfg o = .ok b →
      (∀ k : Digit, t.w5m[k].val ≠ (10 - sum5 t b.digits % 10) % 10) →
      ichk5Result cfg o = failed .invmiss) ∧
    (∀ (o : Operands) (b : BarcodeValue), o.data.toNat < cfg.embedLimit → 6 ≤ o.len.toNat →
      parse cfg ((operandString o).take 6 ++ [0x30] ++ pad5 o.data.toNat) = .ok b →
      (∀ k : Digit, t.w5m[k].val ≠ (10 - sum5 t b.digits % 10) % 10) →
      embedResult cfg o = failed .invmiss)

/-! ### System commands and reserved opcodes -/

/-- R120: `NOP` changes no register, whatever its operand fields hold; an all-zero command word is a
`NOP`, and an edge with `cmd_valid = 0` has the same effect. -/
def Obligations.NopChangesNothing : Prop :=
  (∀ (o : Operands) (s : State), exec (.nop o) s = .next s) ∧
  (decodeWord 0).opcode = 0x00 ∧ (∃ o : Operands, decodeWord 0 = .nop o) ∧
  ∀ (o : Operands) (s : State) (w : CmdWord) (rest : List Edge), s.edges = ⟨false, false, w⟩ :: rest →
    step s = exec (.nop o) { s with edges := rest }

/-- R121: after `CLEAR` every register is 0, as after reset, whatever the operand fields hold; and no
other executing command ends with `VALID = 0` and `CAUSE = 0`. -/
def Obligations.ClearGivesTheResetRegisters : Prop :=
  (∀ (o : Operands) (s : State), exec (.clear o) s = .next ⟨State.reset.rs, s.edges⟩) ∧
  State.reset.rs = shownFailure 0 ∧ statusPort State.reset.rs = 0x00 ∧
  ∀ (i : Instr) (s t : State), Executing i → exec i s = .next t → t.rs.valid = false →
    t.rs.cause = 0 → ∃ o : Operands, i = .clear o

/-- R122: every reserved opcode fails with `ILLEGAL_OP`, clearing the previous result, and the
machine goes on; and without the PW unit its three opcodes do the same. -/
def Obligations.ReservedOpcodesAreIllegal : Prop :=
  (∀ (o : Operands) (op : Byte) (s : State),
    ∀ i ∈ [Instr.reserved0909 o, .reserved0A0B op o, .reserved0C0F op o, .reserved101F op o,
        .reserved203F op o, .reserved407F op o, .reserved80FF op o],
      exec i s = .next ⟨shownFailure 6, s.edges⟩) ∧
  statusPort (shownFailure 6) = 0x0C ∧
  (∀ (w : CmdWord) (s : State), 9 ≤ (w.extractLsb' 0 8).toNat →
    exec (decodeWord w) s = .next ⟨shownFailure 6, s.edges⟩) ∧
  ∀ (cfg : Config) (o : Operands), cfg.hasPw = false →
    ichk5Result cfg o = failed .illegalOp ∧ ichk4Result cfg o = failed .illegalOp ∧
    embedResult cfg o = failed .illegalOp

/-! ### Ports -/

/-- R23: the fields of `status`, and the values the rule prints. -/
def Obligations.StatusPortFields : Prop :=
  (∀ (n : Nat) (rs : ResultState n),
    (statusPort rs).getLsbD 0 = rs.valid ∧ (statusPort rs).extractLsb' 1 3 = rs.cause ∧
    (statusPort rs).extractLsb' 4 2 = rs.enc ∧ (statusPort rs).getLsbD 6 = rs.hascode ∧
    (statusPort rs).getLsbD 7 = false) ∧
  statusPort State.reset.rs = 0x00 ∧
  (∀ (g : List Digit) (c : Digit), statusPort (shownCode .ean13 g c) = 0x61) ∧
  (∀ c : Digit, statusPort (shownDigit .ean8 c) = 0x11) ∧
  statusPort (shownFailure 3) = 0x06 ∧ statusPort (shownFailure 6) = 0x0C

/-- R27: the packing of `DIGITS` and `BITS` onto ports. -/
def Obligations.ArrayPortPacking : Prop :=
  ∀ (n : Nat) (rs : ResultState n),
    (∀ (i : Nat) (h : i < 14), (digitsPort rs).extractLsb' (4 * i) 4 = rs.digits[i]) ∧
    ∀ (i : Nat) (h : i < n), (bitsPort rs).getLsbD i = rs.bits[i]
end

