-- ==== Sys2Proof/Laws/Operands.lean ====
section
/-! SUPPORT. What operand assembly gives: digit characters, the string an operand carries, the
length dispatch and the padded number. -/

namespace Sys2Proof.Machine

/-! ### Characters and digits -/

theorem digitValue_digitChar : ∀ d : Digit, digitValue (digitChar d) = some d := by decide

theorem isDigit_digitChar (d : Digit) : isDigit (digitChar d) = true := by
  simp [isDigit, digitValue_digitChar]

theorem isDigit_iff (c : Byte) : isDigit c = true ↔ 0x30 ≤ c.toNat ∧ c.toNat ≤ 0x39 := by
  unfold isDigit digitValue
  split <;> simp_all

@[simp] theorem digitValues_asText (g : List Digit) : digitValues (asText g) = g := by
  induction g with
  | nil => rfl
  | cons d g ih => simp_all [digitValues, asText, digitValue_digitChar]

@[simp] theorem allDigits_asText (g : List Digit) : allDigits (asText g) = true := by
  simp [allDigits, asText, isDigit_digitChar]

@[simp] theorem asText_length (g : List Digit) : (asText g).length = g.length := by simp [asText]

theorem asText_append (g h : List Digit) : asText (g ++ h) = asText g ++ asText h := by
  simp [asText]

theorem asText_drop (g : List Digit) (k : Nat) : (asText g).drop k = asText (g.drop k) := by
  simp [asText]

theorem asText_take (g : List Digit) (k : Nat) : (asText g).take k = asText (g.take k) := by
  simp [asText]

/-- A string of digit characters is the text of its values. -/
theorem asText_digitValues (s : List Byte) (h : allDigits s = true) :
    asText (digitValues s) = s := by
  induction s with
  | nil => rfl
  | cons c s ih =>
    obtain ⟨hc, hs⟩ : isDigit c = true ∧ allDigits s = true := by simpa [allDigits] using h
    have hv : ∀ c : Byte, isDigit c = true → (digitValue c).map digitChar = some c := by decide
    have := hv c hc
    cases hd : digitValue c with
    | none => simp [hd] at this
    | some d =>
      have hc' : digitChar d = c := by simpa [hd] using this
      have := ih hs
      simp_all [digitValues, asText]

/-! ### The string an operand carries -/

@[simp] theorem operandString_length (o : Operands) : (operandString o).length = o.len.toNat := by
  simp [operandString]
  omega

theorem carries_operandString (o : Operands) : Carries o (operandString o) := by
  refine ⟨(operandString_length o).symm, fun i h hs => ?_⟩
  have : i < o.len.toNat := by simpa using hs
  simp only [operandString]
  rw [List.getElem_append_left (by simp; omega)]
  simp

/-- A string of at most 16 characters is carried whole. -/
theorem operandString_eq (o : Operands) (s : List Byte) (h : Carries o s) (h16 : s.length ≤ 16) :
    operandString o = s := by
  obtain ⟨hl, hc⟩ := h
  have ho := carries_operandString o
  refine List.ext_getElem (by simp [hl]) fun i h₁ h₂ => ?_
  rw [← hc i (by omega) h₂, ← ho.2 i (by omega) h₁]

/-- Two strings carried by the same operands agree on what a command word carries. -/
theorem carries_take (o : Operands) (s t : List Byte) (hs : Carries o s) (ht : Carries o t) (k : Nat)
    (hk : k ≤ 16) : s.take k = t.take k := by
  refine List.ext_getElem (by simp [← hs.1, ← ht.1]) fun i h₁ h₂ => ?_
  simp only [List.length_take] at h₁ h₂
  rw [List.getElem_take, List.getElem_take, ← hs.2 i (by omega) (by omega),
    ← ht.2 i (by omega) (by omega)]

/-- The assembler form of a string (R60) carries it. -/
theorem carries_assemble (s : List Byte) (data : BitVec 32) (h : s.length ≤ 255) :
    Carries (assemble s data) s := by
  refine ⟨by simp [assemble]; omega, fun i hi hs => ?_⟩
  simp [assemble, hs]

/-! ### Length dispatch -/

theorem classify_eq_none (n : Nat) (h : n ∉ [7, 8, 12, 13, 14, 16]) : classify n = none := by
  simp only [List.mem_cons, List.not_mem_nil, or_false, not_or] at h
  unfold classify
  split <;> simp_all

theorem classifyString_eq_none (cfg : Config) (s : List Byte)
    (h : s.length ∉ [7, 8, 12, 13, 14, 16]) : classifyString cfg s = none := by
  simp [classifyString, classify_eq_none _ h]

@[simp] theorem classifyString_config (s : List Byte) :
    classifyString config s = classify s.length := by
  have : ∀ k : StringClass, wrapPrefixAccepted config k s = true := fun k => by
    simp [wrapPrefixAccepted, config]
  unfold classifyString
  cases classify s.length <;> simp [Option.filter, this]

theorem classifyString_mem (cfg : Config) (s : List Byte) (k : StringClass)
    (h : classifyString cfg s = some k) : classify s.length = some k := by
  unfold classifyString at h
  cases hc : classify s.length <;> simp_all [Option.filter]

/-- A class of the dispatch table says how long the string is. -/
theorem classify_length (n : Nat) (k : StringClass) (h : classify n = some k) :
    n ∈ [7, 8, 12, 13, 14, 16] ∧ n = k.skip + (if k.form = .full then k.enc.size else k.enc.size - 1)
      ∧ (k.form = .payload → k.enc ≠ .ean14) := by
  unfold classify at h
  split at h <;> cases h <;> simp [Encoding.size]

/-! ### The padded number -/

/-- `pad5 n` is the text of five digits whose decimal value is `n`. -/
theorem pad5_eq_asText (n : Nat) (h : n < 100000) : ∃ five : List Digit,
    pad5 n = asText five ∧ five.length = 5 ∧
    (five.getD 0 0).val * 10000 + (five.getD 1 0).val * 1000 + (five.getD 2 0).val * 100 +
      (five.getD 3 0).val * 10 + (five.getD 4 0).val = n := by
  refine ⟨[n / 10000, n / 1000, n / 100, n / 10, n].map fun q => Fin.ofNat 10 q,
    by simp [pad5, asText], rfl, ?_⟩
  simp [Fin.ofNat]
  omega

/-! ### Registers that hold digits -/

theorem nibble_toNat (d : Digit) : (nibble d).toNat = d.val := by
  simp [nibble]
  omega

@[simp] theorem digitOfNibble_nibble (d : Digit) : digitOfNibble (nibble d) = d := by
  revert d
  decide

@[simp] theorem loadDigits_getElem (g : List Digit) (i : Nat) (h : i < 14) :
    (loadDigits g)[i] = nibble (g.getD i 0) := by
  simp [loadDigits]

@[simp] theorem loadBits_getElem {n : Nat} (b : BitSeq) (i : Nat) (h : i < n) :
    (loadBits b : Vector Bool n)[i] = b.getD i false := by
  simp [loadBits]

/-- The digits of a published code are read back whole. -/
theorem heldDigits_loadDigits {n : Nat} (rs : ResultState n) (e : Encoding) (g : List Digit)
    (h : rs.digits = loadDigits g) (hg : g.length = e.size) : heldDigits rs e = g := by
  have he : e.size ≤ 14 := by cases e <;> simp [Encoding.size]
  refine List.ext_getElem (by simp [heldDigits, hg]; omega) fun i h₁ h₂ => ?_
  simp [heldDigits, h, h₂]

/-- The modules of a published sequence are read back whole. -/
theorem loadBits_take {n : Nat} (b : BitSeq) (h : b.length ≤ n) :
    (loadBits b : Vector Bool n).toList.take b.length = b := by
  refine List.ext_getElem (by simp; omega) fun i h₁ h₂ => ?_
  simp [h₂]

end Sys2Proof.Machine
end

