-- ==== Sys2Proof/Laws/CheckDigit.lean ====
section
/-! SUPPORT. What `parse` and `checkDigit` can answer: one lemma for each way they fail, and one that
says what a parsed value is. -/

namespace Sys2Proof.Machine

theorem parse_of_class_none (cfg : Config) (s : List Byte) (h : classifyString cfg s = none) :
    parse cfg s = .error .length := by
  simp [parse, h]

theorem parse_of_nondigit (cfg : Config) (s : List Byte) (k : StringClass)
    (h : classifyString cfg s = some k) (hd : allDigits s = false) :
    parse cfg s = .error .nonnumeric := by
  simp [parse, h, hd]

theorem checkDigit_of_class_none (cfg : Config) (s : List Byte) (h : classifyString cfg s = none) :
    checkDigit cfg s = .error .length := by
  simp [checkDigit, h]

theorem checkDigit_of_nondigit (cfg : Config) (s : List Byte) (k : StringClass)
    (h : classifyString cfg s = some k) (hd : allDigits s = false) :
    checkDigit cfg s = .error .nonnumeric := by
  simp [checkDigit, h, hd]

/-- The digits after the skipped characters, of an all-digit string. -/
theorem digitsOf_asText (k : StringClass) (g : List Digit) :
    digitsOf k (asText g) = g.drop k.skip := by
  simp [digitsOf, asText_drop]

/-- `parse` of a payload-only form: the check digit is appended (R75 condition 4). -/
theorem parse_payload (cfg : Config) (s : List Byte) (k : StringClass) (p : List Digit)
    (h : classifyString cfg s = some k) (hd : allDigits s = true) (hf : k.form = .payload)
    (hs : digitsOf k s = p) (hp : p.length = k.enc.size - 1) :
    parse cfg s = .ok ⟨k.enc, p ++ [checkDigitOf k.enc p]⟩ := by
  simp [parse, h, hd, hf, hs, presumedAccepted, List.take_of_length_le (Nat.le_of_eq hp)]

/-- `parse` of a full form: the presumed check digit decides (R75 condition 3). -/
theorem parse_full (cfg : Config) (s : List Byte) (k : StringClass) (p : List Digit) (last : Digit)
    (h : classifyString cfg s = some k) (hd : allDigits s = true) (hf : k.form = .full)
    (hs : digitsOf k s = p ++ [last]) (hp : p.length = k.enc.size - 1) :
    parse cfg s =
      if last = checkDigitOf k.enc p then .ok ⟨k.enc, p ++ [last]⟩ else .error .checksum := by
  have ht : (p ++ [last]).take (k.enc.size - 1) = p := by
    rw [← hp]
    simp
  have hl : (p ++ [last]).getD (k.enc.size - 1) 0 = last := by
    rw [← hp]
    simp
  simp only [parse, h, hd, if_true, hf, hs, presumedAccepted, ht, hl]
  by_cases hc : last = checkDigitOf k.enc p
  · simp [← hc]
  · simp [hc]

/-- `checkDigit` of an accepted all-digit string: the payload alone counts (R76). -/
theorem checkDigit_eq (cfg : Config) (s : List Byte) (k : StringClass) (p last : List Digit)
    (h : classifyString cfg s = some k) (hd : allDigits s = true)
    (hs : digitsOf k s = p ++ last) (hp : p.length = k.enc.size - 1) :
    checkDigit cfg s = .ok (k.enc, checkDigitOf k.enc p) := by
  have ht : (p ++ last).take (k.enc.size - 1) = p := by
    rw [← hp]
    simp
  simp [checkDigit, h, hd, hs, ht]

/-- The digits of an accepted all-digit string, as many as its class says. -/
theorem digitsOf_length (cfg : Config) (s : List Byte) (k : StringClass)
    (h : classifyString cfg s = some k) (hd : allDigits s = true) :
    (digitsOf k s).length = if k.form = .full then k.enc.size else k.enc.size - 1 := by
  have hn := (classify_length _ k (classifyString_mem cfg s k h)).2.1
  have ht := asText_digitValues s hd
  rw [← ht, digitsOf_asText, List.length_drop]
  rw [← ht, asText_length] at hn
  omega

/-- Everything `parse` can answer (R75, R128). -/
theorem parse_cases (cfg : Config) (s : List Byte) :
    (classifyString cfg s = none ∧ parse cfg s = .error .length) ∨
    ∃ k, classifyString cfg s = some k ∧
      ((allDigits s = false ∧ parse cfg s = .error .nonnumeric) ∨
       (allDigits s = true ∧ ∃ p : List Digit, p.length = k.enc.size - 1 ∧
        ((k.form = .payload ∧ digitsOf k s = p ∧
            parse cfg s = .ok ⟨k.enc, p ++ [checkDigitOf k.enc p]⟩) ∨
         (k.form = .full ∧ ∃ last, digitsOf k s = p ++ [last] ∧
            ((last = checkDigitOf k.enc p ∧ parse cfg s = .ok ⟨k.enc, p ++ [last]⟩) ∨
             (last ≠ checkDigitOf k.enc p ∧ parse cfg s = .error .checksum)))))) := by
  cases h : classifyString cfg s with
  | none => exact .inl ⟨rfl, parse_of_class_none cfg s h⟩
  | some k =>
    refine .inr ⟨k, rfl, ?_⟩
    cases hd : allDigits s with
    | false => exact .inl ⟨rfl, parse_of_nondigit cfg s k h hd⟩
    | true =>
      refine .inr ⟨rfl, ?_⟩
      have hl := digitsOf_length cfg s k h hd
      cases hf : k.form with
      | payload =>
        rw [if_neg (by simp [hf])] at hl
        exact ⟨digitsOf k s, hl, .inl ⟨rfl, rfl, parse_payload cfg s k _ h hd hf rfl hl⟩⟩
      | full =>
        rw [if_pos hf] at hl
        have hpos : 0 < k.enc.size := by cases k.enc <;> simp [Encoding.size]
        have hne : digitsOf k s ≠ [] := by
          intro h0
          simp [h0] at hl
          omega
        have hsplit := (List.dropLast_append_getLast hne).symm
        have hp : (digitsOf k s).dropLast.length = k.enc.size - 1 := by simp [hl]
        have hparse := parse_full cfg s k _ _ h hd hf hsplit hp
        refine ⟨_, hp, .inr ⟨rfl, _, hsplit, ?_⟩⟩
        by_cases hc : (digitsOf k s).getLast hne = checkDigitOf k.enc (digitsOf k s).dropLast
        · exact .inl ⟨hc, by rw [hparse, if_pos hc]⟩
        · exact .inr ⟨hc, by rw [hparse, if_neg hc]⟩

/-- A parsed value is a payload and its own check digit (R80, invariant). -/
theorem parse_ok (cfg : Config) (s : List Byte) (b : BarcodeValue) (h : parse cfg s = .ok b) :
    ∃ k p, classifyString cfg s = some k ∧ allDigits s = true ∧ b.enc = k.enc ∧
      p.length = b.enc.size - 1 ∧ b.digits = p ++ [checkDigitOf b.enc p] ∧
      (k.form = .payload → digitsOf k s = p) ∧ (k.form = .full → digitsOf k s = b.digits) := by
  obtain ⟨-, he⟩ | ⟨k, hk, ⟨-, he⟩ | ⟨hd, p, hp, ⟨hf, hs, he⟩ | ⟨hf, l, hs, ⟨hl, he⟩ | ⟨-, he⟩⟩⟩⟩ :=
    parse_cases cfg s
  · simp [he] at h
  · simp [he] at h
  · obtain rfl : _ = b := by simpa [he] using h
    exact ⟨k, p, hk, hd, rfl, hp, rfl, fun _ => hs, fun hf' => by simp [hf] at hf'⟩
  · obtain rfl : _ = b := by simpa [he] using h
    exact ⟨k, p, hk, hd, rfl, hp, by simp [hl], fun hf' => by simp [hf] at hf', fun _ => hs⟩
  · simp [he] at h

/-- A parsed value has as many digits as its encoding says. -/
theorem parse_ok_length (cfg : Config) (s : List Byte) (b : BarcodeValue)
    (h : parse cfg s = .ok b) : b.digits.length = b.enc.size := by
  obtain ⟨k, p, -, -, -, hp, hb, -⟩ := parse_ok cfg s b h
  have : 0 < b.enc.size := by cases b.enc <;> simp [Encoding.size]
  simp [hb, hp]
  omega

/-- The last digit of a parsed value is its check digit. -/
theorem parse_ok_lastDigit (cfg : Config) (s : List Byte) (b : BarcodeValue)
    (h : parse cfg s = .ok b) :
    b.lastDigit = checkDigitOf b.enc (b.digits.take (b.enc.size - 1)) := by
  obtain ⟨k, p, -, -, -, hp, hb, -⟩ := parse_ok cfg s b h
  simp [BarcodeValue.lastDigit, hb, ← hp]

end Sys2Proof.Machine
end

