-- ==== Sys2Proof/Laws/PerInstr.lean ====
section
/-! SUPPORT. Statements made of every instruction, one lemma for each constructor. -/

namespace Sys2Proof.Laws

/-- The mnemonic of a command, as `spec/opcode_table.json` spells it. -/
def mnemonicOf : Instr → String
  | .nop _ => "NOP"
  | .parse _ => "PARSE"
  | .chkdig _ => "CHKDIG"
  | .encode _ => "ENCODE"
  | .shift _ => "SHIFT"
  | .ichk5 _ => "ICHK5"
  | .ichk4 _ => "ICHK4"
  | .embed _ => "EMBED"
  | .clear _ => "CLEAR"
  | .reserved0909 _ => "RESERVED_09_09"
  | .reserved0A0B _ _ => "RESERVED_0A_0B"
  | .reserved0C0F _ _ => "RESERVED_0C_0F"
  | .reserved101F _ _ => "RESERVED_10_1F"
  | .reserved203F _ _ => "RESERVED_20_3F"
  | .reserved407F _ _ => "RESERVED_40_7F"
  | .reserved80FF _ _ => "RESERVED_80_FF"

/-- The opcodes of the row with the given mnemonic match that row of the table and no other. -/
def onlyRowOf (op : Byte) (mnemonic : String) : Bool :=
  ((opcodeTable.filter fun r => r.admits op).map fun r => r.mnemonic) == [mnemonic]

/-- R52: the opcode of a well-formed command matches the row of the command and no other. -/
def OpcodeRow.Statement (i : Instr) : Prop :=
  i.wellFormed = true → onlyRowOf i.opcode (mnemonicOf i) = true

theorem OpcodeRow.nop (o : Operands) : OpcodeRow.Statement (.nop o) := fun _ =>
  show onlyRowOf 0x00 "NOP" = true by decide

theorem OpcodeRow.parse (o : Operands) : OpcodeRow.Statement (.parse o) := fun _ =>
  show onlyRowOf 0x01 "PARSE" = true by decide

theorem OpcodeRow.chkdig (o : Operands) : OpcodeRow.Statement (.chkdig o) := fun _ =>
  show onlyRowOf 0x02 "CHKDIG" = true by decide

theorem OpcodeRow.encode (o : Operands) : OpcodeRow.Statement (.encode o) := fun _ =>
  show onlyRowOf 0x03 "ENCODE" = true by decide

theorem OpcodeRow.shift (o : Operands) : OpcodeRow.Statement (.shift o) := fun _ =>
  show onlyRowOf 0x04 "SHIFT" = true by decide

theorem OpcodeRow.ichk5 (o : Operands) : OpcodeRow.Statement (.ichk5 o) := fun _ =>
  show onlyRowOf 0x05 "ICHK5" = true by decide

theorem OpcodeRow.ichk4 (o : Operands) : OpcodeRow.Statement (.ichk4 o) := fun _ =>
  show onlyRowOf 0x06 "ICHK4" = true by decide

theorem OpcodeRow.embed (o : Operands) : OpcodeRow.Statement (.embed o) := fun _ =>
  show onlyRowOf 0x07 "EMBED" = true by decide

theorem OpcodeRow.clear (o : Operands) : OpcodeRow.Statement (.clear o) := fun _ =>
  show onlyRowOf 0x08 "CLEAR" = true by decide

theorem OpcodeRow.reserved0909 (o : Operands) : OpcodeRow.Statement (.reserved0909 o) := fun _ =>
  show onlyRowOf 0x09 "RESERVED_09_09" = true by decide

/-- Every opcode of the range 0x0A to 0x0B matches its row alone. -/
theorem onlyRowOf_reserved0A0B : ∀ op : Byte, opcodeIn 0x0A 0x0B op = true →
    onlyRowOf op "RESERVED_0A_0B" = true := by decide

theorem OpcodeRow.reserved0A0B (op : Byte) (o : Operands) :
    OpcodeRow.Statement (.reserved0A0B op o) := onlyRowOf_reserved0A0B op

/-- Every opcode of the range 0x0C to 0x0F matches its row alone. -/
theorem onlyRowOf_reserved0C0F : ∀ op : Byte, opcodeIn 0x0C 0x0F op = true →
    onlyRowOf op "RESERVED_0C_0F" = true := by decide

theorem OpcodeRow.reserved0C0F (op : Byte) (o : Operands) :
    OpcodeRow.Statement (.reserved0C0F op o) := onlyRowOf_reserved0C0F op

/-- Every opcode of the range 0x10 to 0x1F matches its row alone. -/
theorem onlyRowOf_reserved101F : ∀ op : Byte, opcodeIn 0x10 0x1F op = true →
    onlyRowOf op "RESERVED_10_1F" = true := by decide

theorem OpcodeRow.reserved101F (op : Byte) (o : Operands) :
    OpcodeRow.Statement (.reserved101F op o) := onlyRowOf_reserved101F op

/-- Every opcode of the range 0x20 to 0x3F matches its row alone. -/
theorem onlyRowOf_reserved203F : ∀ op : Byte, opcodeIn 0x20 0x3F op = true →
    onlyRowOf op "RESERVED_20_3F" = true := by decide

theorem OpcodeRow.reserved203F (op : Byte) (o : Operands) :
    OpcodeRow.Statement (.reserved203F op o) := onlyRowOf_reserved203F op

/-- Every opcode of the range 0x40 to 0x7F matches its row alone. -/
theorem onlyRowOf_reserved407F : ∀ op : Byte, opcodeIn 0x40 0x7F op = true →
    onlyRowOf op "RESERVED_40_7F" = true := by decide

theorem OpcodeRow.reserved407F (op : Byte) (o : Operands) :
    OpcodeRow.Statement (.reserved407F op o) := onlyRowOf_reserved407F op

/-- Every opcode of the range 0x80 to 0xFF matches its row alone. -/
theorem onlyRowOf_reserved80FF : ∀ op : Byte, opcodeIn 0x80 0xFF op = true →
    onlyRowOf op "RESERVED_80_FF" = true := by decide

theorem OpcodeRow.reserved80FF (op : Byte) (o : Operands) :
    OpcodeRow.Statement (.reserved80FF op o) := onlyRowOf_reserved80FF op

end Sys2Proof.Laws
end

