-- ==== Sys2Proof/Laws/State.lean ====
section
/-! SUPPORT. One lemma for each register and each operation that writes the result state, so that no
later proof unfolds a record update. -/

namespace Sys2Proof.Machine

variable {n : Nat} (rs : ResultState n) (b : BarcodeValue) (e : Encoding) (d : Digit) (c : Cause)
  (m : BitSeq)

/-! ### The cleared state -/

@[simp] theorem cleared_valid : (ResultState.cleared n).valid = false := rfl
@[simp] theorem cleared_cause : (ResultState.cleared n).cause = 0 := rfl
@[simp] theorem cleared_enc : (ResultState.cleared n).enc = 0 := rfl
@[simp] theorem cleared_hascode : (ResultState.cleared n).hascode = false := rfl
@[simp] theorem cleared_digits : (ResultState.cleared n).digits = Vector.replicate 14 0 := rfl
@[simp] theorem cleared_check : (ResultState.cleared n).check = 0 := rfl
@[simp] theorem cleared_bits : (ResultState.cleared n).bits = Vector.replicate n false := rfl
@[simp] theorem cleared_bitlen : (ResultState.cleared n).bitlen = 0 := rfl
@[simp] theorem cleared_bitpos : (ResultState.cleared n).bitpos = 0 := rfl
@[simp] theorem cleared_mod : (ResultState.cleared n).mod = false := rfl
@[simp] theorem cleared_modv : (ResultState.cleared n).modv = false := rfl

/-! ### A failure -/

@[simp] theorem failed_valid : (failed c : ResultState n).valid = false := rfl
@[simp] theorem failed_cause : (failed c : ResultState n).cause = c.code := rfl
@[simp] theorem failed_enc : (failed c : ResultState n).enc = 0 := rfl
@[simp] theorem failed_hascode : (failed c : ResultState n).hascode = false := rfl
@[simp] theorem failed_digits : (failed c : ResultState n).digits = Vector.replicate 14 0 := rfl
@[simp] theorem failed_check : (failed c : ResultState n).check = 0 := rfl
@[simp] theorem failed_bits : (failed c : ResultState n).bits = Vector.replicate n false := rfl
@[simp] theorem failed_bitlen : (failed c : ResultState n).bitlen = 0 := rfl
@[simp] theorem failed_bitpos : (failed c : ResultState n).bitpos = 0 := rfl
@[simp] theorem failed_mod : (failed c : ResultState n).mod = false := rfl
@[simp] theorem failed_modv : (failed c : ResultState n).modv = false := rfl

/-! ### A published code -/

@[simp] theorem publishCode_valid : (publishCode b d : ResultState n).valid = true := rfl
@[simp] theorem publishCode_cause : (publishCode b d : ResultState n).cause = 0 := rfl
@[simp] theorem publishCode_enc : (publishCode b d : ResultState n).enc = b.enc.code := rfl
@[simp] theorem publishCode_hascode : (publishCode b d : ResultState n).hascode = true := rfl
@[simp] theorem publishCode_digits :
    (publishCode b d : ResultState n).digits = loadDigits b.digits := rfl
@[simp] theorem publishCode_check : (publishCode b d : ResultState n).check = nibble d := rfl
@[simp] theorem publishCode_bits :
    (publishCode b d : ResultState n).bits = Vector.replicate n false := rfl
@[simp] theorem publishCode_bitlen : (publishCode b d : ResultState n).bitlen = 0 := rfl
@[simp] theorem publishCode_bitpos : (publishCode b d : ResultState n).bitpos = 0 := rfl
@[simp] theorem publishCode_mod : (publishCode b d : ResultState n).mod = false := rfl
@[simp] theorem publishCode_modv : (publishCode b d : ResultState n).modv = false := rfl

/-! ### A published digit -/

@[simp] theorem publishDigit_valid : (publishDigit e d : ResultState n).valid = true := rfl
@[simp] theorem publishDigit_cause : (publishDigit e d : ResultState n).cause = 0 := rfl
@[simp] theorem publishDigit_enc : (publishDigit e d : ResultState n).enc = e.code := rfl
@[simp] theorem publishDigit_hascode : (publishDigit e d : ResultState n).hascode = false := rfl
@[simp] theorem publishDigit_digits :
    (publishDigit e d : ResultState n).digits = Vector.replicate 14 0 := rfl
@[simp] theorem publishDigit_check : (publishDigit e d : ResultState n).check = nibble d := rfl
@[simp] theorem publishDigit_bits :
    (publishDigit e d : ResultState n).bits = Vector.replicate n false := rfl
@[simp] theorem publishDigit_bitlen : (publishDigit e d : ResultState n).bitlen = 0 := rfl
@[simp] theorem publishDigit_bitpos : (publishDigit e d : ResultState n).bitpos = 0 := rfl
@[simp] theorem publishDigit_mod : (publishDigit e d : ResultState n).mod = false := rfl
@[simp] theorem publishDigit_modv : (publishDigit e d : ResultState n).modv = false := rfl

/-! ### A published bit sequence -/

@[simp] theorem publishBits_valid : (publishBits rs m).valid = rs.valid := rfl
@[simp] theorem publishBits_cause : (publishBits rs m).cause = rs.cause := rfl
@[simp] theorem publishBits_enc : (publishBits rs m).enc = rs.enc := rfl
@[simp] theorem publishBits_hascode : (publishBits rs m).hascode = rs.hascode := rfl
@[simp] theorem publishBits_digits : (publishBits rs m).digits = rs.digits := rfl
@[simp] theorem publishBits_check : (publishBits rs m).check = rs.check := rfl
@[simp] theorem publishBits_bits : (publishBits rs m).bits = loadBits m := rfl
@[simp] theorem publishBits_bitlen :
    (publishBits rs m).bitlen = BitVec.ofNat 8 m.length := rfl
@[simp] theorem publishBits_bitpos : (publishBits rs m).bitpos = rs.bitpos := rfl
@[simp] theorem publishBits_mod : (publishBits rs m).mod = rs.mod := rfl
@[simp] theorem publishBits_modv : (publishBits rs m).modv = rs.modv := rfl

/-! ### Completing a command -/

theorem complete_eq_next (r : ResultState config.bitMax) (s : State) :
    complete r s = .next ⟨r, s.edges⟩ := rfl

/-- All that completing a command can do. -/
theorem complete_next_iff (r : ResultState config.bitMax) (s t : State) :
    complete r s = .next t ↔ t = ⟨r, s.edges⟩ := by
  rw [complete_eq_next]
  constructor
  · intro h
    injection h with h
    exact h.symm
  · rintro rfl
    rfl

end Sys2Proof.Machine
end

