-- ==== Sys2Proof/Laws/Step.lean ====
section
/-! SUPPORT. What a step and a run can do, said once. -/

namespace Sys2Proof.Machine

/-- Everything an edge can do (R144): one case for each action.  The ticked cases are exclusive. -/
theorem step_cases (s : State) :
    (s.edges = [] ∧ step s = .next s) ∨
    ∃ e rest, s.edges = e :: rest ∧
      ((e.rst = true ∧ step s = .next ⟨ResultState.cleared config.bitMax, rest⟩) ∨
       (e.rst = false ∧ e.cmdValid = true ∧ step s = exec (decodeWord e.cmdWord) ⟨s.rs, rest⟩) ∨
       (e.rst = false ∧ e.cmdValid = false ∧ step s = .next ⟨s.rs, rest⟩)) := by
  obtain ⟨rs, edges⟩ := s
  cases edges with
  | nil => exact .inl ⟨rfl, rfl⟩
  | cons e rest =>
    obtain ⟨rst, valid, word⟩ := e
    refine .inr ⟨_, rest, rfl, ?_⟩
    cases rst
    · cases valid
      · exact .inr (.inr ⟨rfl, rfl, rfl⟩)
      · exact .inr (.inl ⟨rfl, rfl, rfl⟩)
    · exact .inl ⟨rfl, rfl⟩

/-- A command answers a next state and touches the result state alone. -/
theorem exec_next (i : Instr) (s : State) : ∃ rs, exec i s = .next ⟨rs, s.edges⟩ := by
  cases i <;> exact ⟨_, rfl⟩

/-- The first step of a longer run. -/
theorem run_succ_of_next (k : Nat) (s t : State) (h : step s = .next t) :
    core.run (k + 1) s = core.run k t := by
  have unfoldOnce : ∀ (M : Host.Core) (k : Nat) (s s' : M.State), M.step s = .next s' →
      M.run (k + 1) s = M.run k s' := fun M k s s' h => by rw [Host.Core.run, h]
  exact unfoldOnce core k s t h

/-- Delivering a module writes the serializer's three registers and no other (R24, R110). -/
theorem shiftOut_frame {n : Nat} (rs : ResultState n) : shiftOut rs =
    { rs with bitpos := (shiftOut rs).bitpos, mod := (shiftOut rs).mod,
              modv := (shiftOut rs).modv } := by
  unfold shiftOut
  split <;> rfl

/-- Delivering a module, position by position (R110). -/
theorem shiftOut_of_lt {n : Nat} (rs : ResultState n) (h : rs.bitpos.toNat < rs.bitlen.toNat)
    (hn : rs.bitpos.toNat < n) : shiftOut rs =
    { rs with mod := rs.bits[rs.bitpos.toNat], modv := true, bitpos := rs.bitpos + 1 } := by
  simp [shiftOut, h, readModule, hn]

/-- Nothing is left to deliver (R110). -/
theorem shiftOut_at_end {n : Nat} (rs : ResultState n) (h : rs.bitlen.toNat ≤ rs.bitpos.toNat) :
    shiftOut rs = { rs with mod := false, modv := false } := by
  simp [shiftOut, Nat.not_lt.mpr h]

end Sys2Proof.Machine
end

