-- ==== Sys2Proof/Tests/Slice0.lean ====
section
/-! SUPPORT. The model's own tests: smoke tests of well-formedness, words of the spec decoded, one
or two single steps for each command with the results of 95_test_vectors.md, and a witness for the
hypotheses of every statement. -/

namespace Sys2Proof.Tests

open Machine

/-! ### Well-formedness: one ill-formed term for each check -/

/-- Operands that carry nothing. -/
def none0 : Operands := assemble [] 0

theorem smoke_reserved0A0B : (Instr.reserved0A0B 0x0C none0).wellFormed = false := by decide
theorem smoke_reserved0C0F : (Instr.reserved0C0F 0x10 none0).wellFormed = false := by decide
theorem smoke_reserved101F : (Instr.reserved101F 0x0F none0).wellFormed = false := by decide
theorem smoke_reserved203F : (Instr.reserved203F 0x40 none0).wellFormed = false := by decide
theorem smoke_reserved407F : (Instr.reserved407F 0x3F none0).wellFormed = false := by decide
theorem smoke_reserved80FF : (Instr.reserved80FF 0x00 none0).wellFormed = false := by decide

/-! ### Decoding: the words printed in 95_test_vectors.md, written out byte by byte -/

/-- What the decoder reads from exactly one command's bytes. -/
def decodes (bs : List Byte) (i : Instr) : Bool :=
  match decode bs with
  | .ok (j, []) => j == i
  | _ => false

/-- Y7: unused fields of `NOP` are carried and ignored. -/
theorem test_decode_nop : decodes
    [0x00, 0x0D, 0x07, 0, 0, 0, 0x34, 0x30, 0, 0, 0, 0, 0, 0, 0, 0, 0, 0, 0, 0, 0, 0]
    (.nop ⟨13, 7, #v[0x34, 0x30, 0, 0, 0, 0, 0, 0, 0, 0, 0, 0, 0, 0, 0, 0]⟩) = true := by decide

/-- P4 step 1: all sixteen characters are used. -/
theorem test_decode_parse : decodes
    [0x01, 0x10, 0, 0, 0, 0, 0x30, 0x31, 0x31, 0x30, 0x30, 0x31, 0x32, 0x33, 0x34, 0x35, 0x36, 0x37,
     0x38, 0x39, 0x30, 0x32]
    (.parse ⟨16, 0, #v[0x30, 0x31, 0x31, 0x30, 0x30, 0x31, 0x32, 0x33, 0x34, 0x35, 0x36, 0x37, 0x38,
      0x39, 0x30, 0x32]⟩) = true := by decide

/-- Y8: `DATA` is little-endian in bytes 2 to 5; here with four different bytes. -/
theorem test_decode_data_little_endian : decodes
    [0x01, 0x08, 0x78, 0x56, 0x34, 0x12, 0x39, 0x36, 0x33, 0x38, 0x35, 0x30, 0x37, 0x34, 0, 0, 0, 0,
     0, 0, 0, 0]
    (.parse ⟨8, 0x12345678, #v[0x39, 0x36, 0x33, 0x38, 0x35, 0x30, 0x37, 0x34, 0, 0, 0, 0, 0, 0, 0,
      0]⟩) = true := by decide

/-- P1 step 4. -/
theorem test_decode_chkdig : decodes
    [0x02, 0x08, 0, 0, 0, 0, 0x34, 0x30, 0x31, 0x32, 0x33, 0x34, 0x35, 0x36, 0, 0, 0, 0, 0, 0, 0, 0]
    (.chkdig ⟨8, 0, #v[0x34, 0x30, 0x31, 0x32, 0x33, 0x34, 0x35, 0x36, 0, 0, 0, 0, 0, 0, 0, 0]⟩) =
    true := by decide

/-- P2 step 3. -/
theorem test_decode_encode : decodes
    [0x03, 0x08, 0, 0, 0, 0, 0x37, 0x33, 0x35, 0x31, 0x33, 0x35, 0x33, 0x37, 0, 0, 0, 0, 0, 0, 0, 0]
    (.encode ⟨8, 0, #v[0x37, 0x33, 0x35, 0x31, 0x33, 0x35, 0x33, 0x37, 0, 0, 0, 0, 0, 0, 0, 0]⟩) =
    true := by decide

/-- P2 step 4. -/
theorem test_decode_shift : decodes
    [0x04, 0, 0, 0, 0, 0, 0, 0, 0, 0, 0, 0, 0, 0, 0, 0, 0, 0, 0, 0, 0, 0] (.shift none0) = true := by
  decide

/-- P3 step 2. -/
theorem test_decode_ichk5 : decodes
    [0x05, 0x0D, 0, 0, 0, 0, 0x31, 0x32, 0x33, 0x34, 0x35, 0x36, 0x35, 0x30, 0x30, 0x39, 0x39, 0x39,
     0x37, 0, 0, 0]
    (.ichk5 ⟨13, 0, #v[0x31, 0x32, 0x33, 0x34, 0x35, 0x36, 0x35, 0x30, 0x30, 0x39, 0x39, 0x39, 0x37,
      0, 0, 0]⟩) = true := by decide

/-- P3 step 3. -/
theorem test_decode_ichk4 : decodes
    [0x06, 0x0D, 0, 0, 0, 0, 0x31, 0x32, 0x33, 0x34, 0x35, 0x36, 0x35, 0x30, 0x30, 0x39, 0x39, 0x39,
     0x37, 0, 0, 0]
    (.ichk4 ⟨13, 0, #v[0x31, 0x32, 0x33, 0x34, 0x35, 0x36, 0x35, 0x30, 0x30, 0x39, 0x39, 0x39, 0x37,
      0, 0, 0]⟩) = true := by decide

/-- P4 step 5. -/
theorem test_decode_embed : decodes
    [0x07, 0x06, 0x9F, 0x86, 0x01, 0, 0x31, 0x32, 0x33, 0x34, 0x35, 0x36, 0, 0, 0, 0, 0, 0, 0, 0, 0,
     0]
    (.embed ⟨6, 99999, #v[0x31, 0x32, 0x33, 0x34, 0x35, 0x36, 0, 0, 0, 0, 0, 0, 0, 0, 0, 0]⟩) =
    true := by decide

/-- P3 step 5. -/
theorem test_decode_clear : decodes
    [0x08, 0, 0, 0, 0, 0, 0, 0, 0, 0, 0, 0, 0, 0, 0, 0, 0, 0, 0, 0, 0, 0] (.clear none0) = true := by
  decide

/-- Y4. -/
theorem test_decode_reserved0909 : decodes
    [0x09, 0, 0, 0, 0, 0, 0, 0, 0, 0, 0, 0, 0, 0, 0, 0, 0, 0, 0, 0, 0, 0] (.reserved0909 none0) =
    true := by decide

theorem test_decode_reserved0A0B : decodes
    [0x0B, 0, 0, 0, 0, 0, 0, 0, 0, 0, 0, 0, 0, 0, 0, 0, 0, 0, 0, 0, 0, 0] (.reserved0A0B 0x0B none0) =
    true := by decide

theorem test_decode_reserved0C0F : decodes
    [0x0F, 0, 0, 0, 0, 0, 0, 0, 0, 0, 0, 0, 0, 0, 0, 0, 0, 0, 0, 0, 0, 0] (.reserved0C0F 0x0F none0) =
    true := by decide

theorem test_decode_reserved101F : decodes
    [0x1F, 0, 0, 0, 0, 0, 0, 0, 0, 0, 0, 0, 0, 0, 0, 0, 0, 0, 0, 0, 0, 0] (.reserved101F 0x1F none0) =
    true := by decide

/-- P4 step 4, Y6. -/
theorem test_decode_reserved203F : decodes
    [0x2A, 0x03, 0, 0, 0, 0, 0x31, 0x32, 0x33, 0, 0, 0, 0, 0, 0, 0, 0, 0, 0, 0, 0, 0]
    (.reserved203F 0x2A ⟨3, 0, #v[0x31, 0x32, 0x33, 0, 0, 0, 0, 0, 0, 0, 0, 0, 0, 0, 0, 0]⟩) =
    true := by decide

theorem test_decode_reserved407F : decodes
    [0x7F, 0, 0, 0, 0, 0, 0, 0, 0, 0, 0, 0, 0, 0, 0, 0, 0, 0, 0, 0, 0, 0] (.reserved407F 0x7F none0) =
    true := by decide

/-- Y5. -/
theorem test_decode_reserved80FF : decodes
    [0xFF, 0, 0, 0, 0, 0, 0, 0, 0, 0, 0, 0, 0, 0, 0, 0, 0, 0, 0, 0, 0, 0] (.reserved80FF 0xFF none0) =
    true := by decide

/-- The assembler form of R60 gives the word of P1 step 1. -/
theorem test_assembled_word :
    encode (.parse (assemble (asText [4, 0, 0, 6, 3, 8, 1, 3, 3, 3, 9, 3]) 0)) =
    [0x01, 0x0C, 0, 0, 0, 0, 0x34, 0x30, 0x30, 0x36, 0x33, 0x38, 0x31, 0x33, 0x33, 0x33, 0x39, 0x33,
     0, 0, 0, 0] := by decide

/-- A word given as a number: bit 0 is the least significant bit of the first byte. -/
theorem test_table_word : decodeTableWord 16 0x0D01 = some (.parse ⟨13, 0, none0.chars⟩) := by
  decide

/-! ### Single steps -/

/-- A digit string and a number as operands (R60). -/
def str (g : List Digit) (data : BitVec 32) : Operands := assemble (asText g) data

/-- A state in which an earlier command left a result: after `PARSE "96385074"` (K3). -/
def afterK3 : State := ⟨parseResult config (str [9, 6, 3, 8, 5, 0, 7, 4] 0), []⟩

/-- The state after `ENCODE "40123455"` (E1), with the serializer at the given position. -/
def afterE1 (pos : BitVec 8) : State :=
  ⟨{ encodeResult config (str [4, 0, 1, 2, 3, 4, 5, 5] 0) with bitpos := pos }, []⟩

/-- A property of the result state of one command, in the state given. -/
def after (i : Instr) (s : State) (p : ResultState config.bitMax → Bool) : Bool :=
  match exec i s with
  | .next t => p t.rs
  | _ => false

/-- Y2. -/
theorem test_nop : after (.nop none0) afterK3 (fun r =>
    statusPort r == 0x51 && digitsPort r == 0x00000047058369 && r.check == 4) = true := by decide

/-- K2, with its packed port. -/
theorem test_parse_payload : after (.parse (str [4, 0, 0, 6, 3, 8, 1, 3, 3, 3, 9, 3] 0)) afterK3
    (fun r => statusPort r == 0x61 && digitsPort r == 0x01393331836004 && r.check == 1) = true := by
  decide

/-- K28: the wrapper form with a wrong check digit. -/
theorem test_parse_wrapper_checksum :
    after (.parse (str [0, 1, 1, 0, 0, 1, 2, 3, 4, 5, 6, 7, 8, 9, 0, 3] 0)) afterK3
    (fun r => statusPort r == 0x06 && digitsPort r == 0) = true := by decide

/-- K9: the wrong last digit does not matter. -/
theorem test_chkdig_full : after (.chkdig (str [4, 0, 1, 2, 3, 4, 5, 6] 0)) afterK3
    (fun r => statusPort r == 0x11 && r.check == 5 && digitsPort r == 0) = true := by decide

/-- K12: the last character is tested. -/
theorem test_chkdig_nondigit :
    after (.chkdig (assemble (asText [4, 0, 1, 2, 3, 4, 5] ++ [0x58]) 0)) afterK3
    (fun r => statusPort r == 0x04 && r.check == 0) = true := by decide

/-- E1: the packed `bits` port. -/
theorem test_encode_ean8 : after (.encode (str [4, 0, 1, 2, 3, 4, 5, 5] 0)) afterK3
    (fun r => bitsPort r == 0xAE5C9D42AC932C62A00 && r.bitlen == 85 && statusPort r == 0x51) =
    true := by decide +kernel

/-- E5: the packed `bits` port of the printed core (packed by R27). -/
theorem test_encode_ean13 : after (.encode (str [4, 0, 0, 6, 3, 8, 1, 3, 3, 3, 9, 3, 1] 0)) afterK3
    (fun r => r.bitlen == 113 && bitsPort r == 0xACD09742850AB348BDEB958A00) = true := by
  decide +kernel

/-- H2, the tenth `SHIFT`: the first module of the left guard. -/
theorem test_shift_guard : after (.shift none0) (afterE1 9)
    (fun r => r.mod && r.modv && r.bitpos == 10 && statusPort r == 0x51) = true := by decide +kernel

/-- H4: at the end nothing is delivered and the position stays. -/
theorem test_shift_end : after (.shift none0) (afterE1 85)
    (fun r => !r.mod && !r.modv && r.bitpos == 85) = true := by decide

/-- W3. -/
theorem test_ichk5 : after (.ichk5 (str [4, 0, 0, 6, 3, 8, 1, 3, 3, 3, 9, 3, 1] 0)) afterK3
    (fun r => r.check == 2 && statusPort r == 0x61 && digitsPort r == 0x01393331836004) = true := by
  decide

/-- W22: with `W5M` constant the failure path of the reverse table is live. -/
theorem test_ichk5_inverse_miss :
    (ichk5Result { config with pw := some { pwTables with w5m := Vector.replicate 10 0 } }
      (str [1, 2, 3, 4, 5, 6, 5, 0, 0, 9, 9, 9, 7] 0)).cause = 4 := by decide

/-- W4. -/
theorem test_ichk4 : after (.ichk4 (str [4, 0, 0, 6, 3, 8, 1, 3, 3, 3, 9, 3, 1] 0)) afterK3
    (fun r => r.check == 9 && statusPort r == 0x61) = true := by decide

/-- W7: an EAN-14 is refused by its length. -/
theorem test_ichk4_length : after (.ichk4 (str [1, 0, 0, 1, 2, 3, 4, 5, 6, 7, 8, 9, 0, 2] 0)) afterK3
    (fun r => statusPort r == 0x02) = true := by decide

/-- W15: a template of seven characters. -/
theorem test_embed : after (.embed (str [2, 9, 1, 2, 3, 4, 5] 1234)) afterK3
    (fun r => digitsPort r == 0x06432101432192 && r.check == 6 && statusPort r == 0x61) = true := by
  decide

/-- W20: `RANGE` before `LENGTH` before `NONNUMERIC`. -/
theorem test_embed_range : after (.embed (assemble [0x31, 0x32, 0x41] 99999)) afterK3
    (fun r => statusPort r == 0x0A) = true := by decide

/-- Y3. -/
theorem test_clear : after (.clear none0) (afterE1 9)
    (fun r => statusPort r == 0 && digitsPort r == 0 && r.bitlen == 0 && r.bitpos == 0) = true := by
  decide

/-- Y4, Y5, Y6: every reserved row fails with `ILLEGAL_OP` and clears the earlier result. -/
theorem test_reserved : [Instr.reserved0909 none0, .reserved0A0B 0x0A none0,
    .reserved0C0F 0x0C none0, .reserved101F 0x10 none0, .reserved203F 0x2A none0,
    .reserved407F 0x40 none0, .reserved80FF 0xFF none0].all (fun i => after i afterK3 fun r =>
      statusPort r == 0x0C && digitsPort r == 0 && r.check == 0) = true := by decide

/-- K27 with `WRAP_PREFIX_CHECK = 1`. -/
theorem test_wrap_prefix_check :
    (parseResult { config with wrapPrefixCheck := true }
      (str [9, 9, 1, 0, 0, 1, 2, 3, 4, 5, 6, 7, 8, 9, 0, 2] 0)).cause = 1 := by decide

/-- W23. -/
theorem test_without_pw : (embedResult { config with pw := none } (str [1, 2, 3, 4, 5, 6] 999)).cause
    = 6 := by decide

/-- Y10: reset wins over a command at the same edge. -/
theorem test_reset_wins : (match step { afterK3 with edges :=
      [⟨true, true, encodeWord (.parse (str [9, 6, 3, 8, 5, 0, 7, 4] 0))⟩] } with
    | .next t => statusPort t.rs == 0 && t.edges == []
    | _ => false) = true := by decide

/-- A command placed by the host runs at the very next step. -/
theorem test_placed_command : (match step (State.reset.withFetchWord 8 0x2A) with
    | .next t => statusPort t.rs == 0x0C
    | _ => false) = true := by decide

/-! ### Witnesses: for every statement with hypotheses, a case that meets them -/

theorem carries_str (g : List Digit) (data : BitVec 32) (h : g.length ≤ 255) :
    Carries (str g data) (asText g) := carries_assemble _ _ (by simpa using h)

/-- An EAN-13 payload and its check digit (K2), an EAN-8 payload and its check digit (K8), and an
EAN-14 payload with check digit 2 (K24). -/
def p13 : List Digit := [4, 0, 0, 6, 3, 8, 1, 3, 3, 3, 9, 3]
def p8 : List Digit := [4, 0, 1, 2, 3, 4, 5]
def p14 : List Digit := [1, 0, 0, 1, 2, 3, 4, 5, 6, 7, 8, 9, 0]

theorem witness_DecodeInvertsEncode : (Instr.parse (str p13 7)).wellFormed = true ∧
    (Instr.reserved0A0B 0x0B none0).wellFormed = true ∧
    (Instr.reserved80FF 0x80 none0).wellFormed = true := by decide

theorem witness_ByteDecoderInvertsByteEncoder :
    (Instr.reserved407F 0x7F (str p8 1)).wellFormed = true := by decide

theorem witness_ShortByteStringsAreRejected : (List.replicate 21 (0 : Byte)).length < 22 := by decide

theorem witness_StepRunsTheDecodedCommand :
    (∃ (s : State) (e : Edge), s.edges = [e] ∧ e.rst = true) ∧
    (∃ (s : State) (e : Edge), s.edges = [e] ∧ e.rst = false ∧ e.cmdValid = true) ∧
    (∃ (s : State) (e : Edge), s.edges = [e] ∧ e.rst = false ∧ e.cmdValid = false) ∧
    ∃ s : State, s.edges = [] :=
  ⟨⟨⟨afterK3.rs, [_]⟩, ⟨true, true, 1⟩, rfl, rfl⟩, ⟨⟨afterK3.rs, [_]⟩, ⟨false, true, 1⟩, rfl, rfl, rfl⟩,
    ⟨⟨afterK3.rs, [_]⟩, ⟨false, false, 1⟩, rfl, rfl, rfl⟩, afterK3, rfl⟩

theorem witness_ResetClearsEveryRegister :
    (⟨afterK3.rs, [⟨true, true, 1⟩]⟩ : State).edges = ⟨true, true, 1⟩ :: [] := rfl

/-- A state that holds a bit sequence, with the serializer at the start, meets the invariants. -/
theorem resultInv_afterE1 : ResultInv config (afterE1 0).rs where
  validMatchesEncoding := by unfold ValidMatchesEncoding; decide +kernel
  heldCodeIsValid := by
    intro _ e he
    cases e
    · exact by decide +kernel
    · exact absurd he (by decide +kernel)
    · exact absurd he (by decide +kernel)
  heldBitsMatchCode := by unfold HeldBitsMatchCode; exact .inr (.inl (by decide +kernel))
  serializerInRange := by unfold SerializerInRange; decide +kernel
  invalidIsEmpty := by unfold InvalidIsEmpty; decide +kernel
  causeIsNamed := by unfold CauseIsNamed; decide +kernel
  elementsAreDigits := by unfold ElementsAreDigits; decide +kernel
  digitsNeedCode := by unfold DigitsNeedCode; decide +kernel

theorem invariant_afterE1 (edges : List Edge) : MachineInv ⟨(afterE1 0).rs, edges⟩ :=
  resultInv_afterE1

theorem witness_StepKeepsTheInvariant :
    ∃ s t : State, MachineInv s ∧ step s = .next t ∧ t.rs.modv = true :=
  ⟨⟨(afterE1 0).rs, [commandEdge (encodeWord (.shift none0))]⟩, _, invariant_afterE1 _, rfl,
    by decide +kernel⟩

theorem witness_NoRunEverStops : ∃ s : State, MachineInv s := ⟨_, invariant_afterE1 []⟩

theorem witness_ExecutingCommandsForgetHistory : ∃ t₁ t₂ : State, Executing (.parse (str p13 0)) ∧
    exec (.parse (str p13 0)) afterK3 = .next t₁ ∧
    exec (.parse (str p13 0)) (afterE1 9) = .next t₂ := ⟨_, _, trivial, rfl, rfl⟩

theorem witness_ShiftReadsOnlyTheSerializer : ∃ s₁ s₂ t₁ t₂ : State, s₁ ≠ s₂ ∧
    s₁.rs.bits = s₂.rs.bits ∧ s₁.rs.bitlen = s₂.rs.bitlen ∧ s₁.rs.bitpos = s₂.rs.bitpos ∧
    exec (.shift none0) s₁ = .next t₁ ∧ exec (.shift none0) s₂ = .next t₂ :=
  ⟨afterK3, State.reset, _, _, by decide +kernel, rfl, rfl, rfl, rfl, rfl⟩

theorem witness_FailureLeavesOnlyTheCause : ∃ t : State, Executing (.embed none0) ∧
    exec (.embed none0) afterK3 = .next t ∧ t.rs.valid = false :=
  ⟨_, trivial, rfl, by decide +kernel⟩

/-- Each of the six commands succeeds somewhere and fails somewhere. -/
theorem witness_RegisterWriteTable :
    (([Instr.parse (str p13 0), .chkdig (str p8 0), .encode (str (p8 ++ [5]) 0), .ichk5 (str p13 0),
      .ichk4 (str p13 0), .embed (str [1, 2, 3, 4, 5, 6] 999)].all fun i =>
        after i afterK3 fun r => r.valid) &&
    ([Instr.parse none0, .chkdig none0, .encode none0, .ichk5 none0, .ichk4 none0,
      .embed none0].all fun i => after i afterK3 fun r => !r.valid)) = true := by decide +kernel

/-- Every cause whose appearance the statement restricts does appear. -/
theorem witness_CausesThatCannotOccur :
    (parseResult config (str (p13 ++ [2]) 0)).cause = 3 ∧
    (ichk5Result config (str (p13 ++ [2]) 0)).cause = 3 ∧
    (ichk4Result config (str (p13 ++ [2]) 0)).cause = 3 ∧
    (embedResult { config with pw := some { pwTables with w5m := Vector.replicate 10 0 } }
      (str [1, 2, 3, 4, 5, 6] 999)).cause = 4 := by decide +kernel

theorem witness_UnusedFieldsAreIgnored :
    (∃ o o' : Operands, o ≠ o' ∧ o.len = o'.len ∧
      ∀ (i : Nat) (h : i < 16), i < o.len.toNat → o.chars[i] = o'.chars[i]) ∧
    ∃ o o' : Operands, o ≠ o' ∧ o.len = o'.len ∧ o.data = o'.data ∧ 6 ≤ o.len.toNat ∧
      ∀ (i : Nat) (h : i < 6), o.chars[i] = o'.chars[i] :=
  ⟨⟨str p8 0, str p8 9, by decide +kernel, rfl, by decide +kernel⟩,
    str p8 9, assemble (asText [4, 0, 1, 2, 3, 4] ++ [0x58]) 9, by decide +kernel, rfl, rfl,
    by decide +kernel, by decide +kernel⟩

theorem witness_UncarriedCharactersNeverMatter : ∃ o : Operands,
    Carries o (asText (p13 ++ [1, 2, 3, 4, 5])) ∧ Carries o (asText (p13 ++ [1, 2, 3, 4, 6])) := by
  refine ⟨str (p13 ++ [1, 2, 3, 4, 5]) 0, carries_str _ _ (by decide), by decide, ?_⟩
  intro i h hs
  have := (carries_str (p13 ++ [1, 2, 3, 4, 5]) 0 (by decide)).2 i h hs
  rw [this]
  interval_cases i <;> rfl

theorem witness_WeightsAlternateFromTheRight : p8.length = Encoding.ean8.size - 1 ∧
    p13.length = Encoding.ean13.size - 1 ∧ p14.length = Encoding.ean14.size - 1 := by decide

theorem witness_UnacceptedLengthsFail :
    (6 : BitVec 8) ∉ ([7, 8, 12, 13, 14, 16] : List (BitVec 8)) ∧
    (17 : BitVec 8) ∉ ([7, 8, 12, 13, 14, 16] : List (BitVec 8)) ∧
    (7 : BitVec 8) ∉ ([8, 13] : List (BitVec 8)) ∧
    (14 : BitVec 8) ∉ ([12, 13] : List (BitVec 8)) := by decide

/-- The last character of the string, just below and just above the digits. -/
theorem witness_NonDigitCharactersFail :
    (∃ (o : Operands) (i : Nat) (h : i < 16), i < o.len.toNat ∧
      ¬(0x30 ≤ o.chars[i].toNat ∧ o.chars[i].toNat ≤ 0x39) ∧
      o.len ∈ ([7, 8, 12, 13, 14, 16] : List (BitVec 8)) ∧ o.len ∈ ([8, 13] : List (BitVec 8))) ∧
    ∃ (o : Operands) (i : Nat) (h : i < 16), i < o.len.toNat ∧
      ¬(0x30 ≤ o.chars[i].toNat ∧ o.chars[i].toNat ≤ 0x39) ∧
      o.len ∈ ([12, 13] : List (BitVec 8)) :=
  ⟨⟨assemble (asText p8 ++ [0x2F]) 0, 7, by decide, by decide⟩,
    assemble (asText p13 ++ [0x3A]) 0, 12, by decide, by decide⟩

theorem witness_ParseCompletesAPayload :
    (Encoding.ean8 ≠ .ean14 ∧ p8.length = Encoding.ean8.size - 1 ∧ Carries (str p8 0) (asText p8)) ∧
    Encoding.ean13 ≠ .ean14 ∧ p13.length = Encoding.ean13.size - 1 ∧
    Carries (str p13 0) (asText p13) :=
  ⟨⟨by decide, by decide, carries_str _ _ (by decide)⟩, by decide, by decide,
    carries_str _ _ (by decide)⟩

/-- Both outcomes, without and with dropped digits. -/
theorem witness_ParseChecksAFullCode :
    (Carries (str ([] ++ p13 ++ [1]) 0) (asText ([] ++ p13 ++ [1])) ∧
      1 = checkDigitOf .ean13 p13 ∧ 2 ≠ checkDigitOf .ean13 p13) ∧
    Carries (str ([9, 9] ++ p14 ++ [2]) 0) (asText ([9, 9] ++ p14 ++ [2])) ∧
      2 = checkDigitOf .ean14 p14 :=
  ⟨⟨carries_str _ _ (by decide), by decide, by decide⟩, carries_str _ _ (by decide), by decide⟩

theorem witness_ChkdigComputesTheCheckDigit :
    Carries (str ([] ++ p8 ++ [9]) 0) (asText ([] ++ p8 ++ [9])) ∧
    Carries (str ([] ++ p13 ++ []) 0) (asText ([] ++ p13 ++ [])) ∧
    Carries (str ([0, 1] ++ p14 ++ [9]) 0) (asText ([0, 1] ++ p14 ++ [9])) :=
  ⟨carries_str _ _ (by decide), carries_str _ _ (by decide), carries_str _ _ (by decide)⟩

/-- The first digit and the check digit itself. -/
theorem witness_SingleDigitErrorIsDetected :
    ((5 : Digit) ≠ (p13 ++ [checkDigitOf .ean13 p13]).getD 0 0 ∧
      Carries (str ((p13 ++ [checkDigitOf .ean13 p13]).set 0 5) 0)
        (asText ((p13 ++ [checkDigitOf .ean13 p13]).set 0 5))) ∧
    (5 : Digit) ≠ (p13 ++ [checkDigitOf .ean13 p13]).getD 12 0 ∧
      Carries (str ((p13 ++ [checkDigitOf .ean13 p13]).set 12 5) 0)
        (asText ((p13 ++ [checkDigitOf .ean13 p13]).set 12 5)) :=
  ⟨⟨by decide, carries_str _ _ (by decide)⟩, by decide, carries_str _ _ (by decide)⟩

theorem witness_ParseOfAParsedCodeIsTheSame : ∃ t : State,
    exec (.parse (str p13 0)) afterK3 = .next t ∧ t.rs.valid = true ∧
    t.rs.enc = Encoding.ean13.code ∧
    Carries (str (heldDigits t.rs .ean13) 0) (asText (heldDigits t.rs .ean13)) :=
  ⟨_, rfl, by decide +kernel, by decide +kernel, carries_str _ _ (by decide +kernel)⟩

theorem witness_WrapperFormIsItsLastFourteen : (asText (p14 ++ [2])).length = 14 ∧
    isDigit 0x30 = true ∧ isDigit 0x39 = true ∧
    Carries (str (p14 ++ [2]) 0) (asText (p14 ++ [2])) ∧
    Carries (assemble (0x30 :: 0x39 :: asText (p14 ++ [2])) 0)
      (0x30 :: 0x39 :: asText (p14 ++ [2])) :=
  ⟨by decide, by decide, by decide, carries_str _ _ (by decide), carries_assemble _ _ (by decide)⟩

theorem witness_EncodeShowsTheSymbol :
    (Carries (str (p13 ++ [1]) 0) (asText (p13 ++ [1])) ∧ p13.length = 12 ∧ 1 = cd13 p13) ∧
    Carries (str (p8 ++ [6]) 0) (asText (p8 ++ [6])) ∧ p8.length = 7 ∧ 6 ≠ cd8 p8 :=
  ⟨⟨carries_str _ _ (by decide), by decide, by decide⟩, carries_str _ _ (by decide), by decide,
    by decide⟩

theorem witness_EncodeRefusesAPayload : Encoding.ean8 ≠ .ean14 ∧
    p8.length = Encoding.ean8.size - 1 ∧ Carries (str p8 0) (asText p8) :=
  ⟨by decide, by decide, carries_str _ _ (by decide)⟩

theorem witness_EncodeShowsTheCodeOfParse : ∃ t : State,
    exec (.encode (str (p13 ++ [1]) 0)) afterK3 = .next t ∧ t.rs.valid = true :=
  ⟨_, rfl, by decide +kernel⟩

/-- The last module, the first position without an element, and the end of the sequence. -/
theorem witness_ShiftDeliversTheNextModule :
    ((afterE1 84).rs.bitpos.toNat < config.bitMax ∧
      (afterE1 84).rs.bitpos.toNat < (afterE1 84).rs.bitlen.toNat) ∧
    (∃ s : State, config.bitMax ≤ s.rs.bitpos.toNat ∧ s.rs.bitpos.toNat < s.rs.bitlen.toNat) ∧
    (afterE1 85).rs.bitlen.toNat ≤ (afterE1 85).rs.bitpos.toNat :=
  ⟨by decide +kernel,
    ⟨⟨{ ResultState.cleared config.bitMax with bitlen := 255, bitpos := 113 }, []⟩,
      by decide +kernel⟩,
    by decide +kernel⟩

theorem witness_SerializerDeliversTheSequence : ∃ s : State, MachineInv s ∧ s.rs.bitpos = 0 ∧
    0 < s.rs.bitlen.toNat ∧
    s.edges = List.replicate 3 (commandEdge (encodeWord (.shift none0))) ++ [] :=
  ⟨_, invariant_afterE1 _, by decide +kernel, by decide +kernel, rfl⟩

theorem witness_ShiftAllYieldsTheRest : ∃ s : State, MachineInv s ∧ s.rs.bitlen = 85 :=
  ⟨_, invariant_afterE1 [], by decide +kernel⟩

theorem witness_DifferentCodesHaveDifferentSymbols :
    ((p13 ++ [1]).length = 13 ∧ bits13 config (p13 ++ [1]) = bits13 config (p13 ++ [1])) ∧
    (p8 ++ [5]).length = 8 ∧ bits8 config (p8 ++ [5]) = bits8 config (p8 ++ [5]) :=
  ⟨⟨rfl, rfl⟩, rfl, rfl⟩

/-- Without a check digit, with the right one, and with a wrong one. -/
theorem witness_Ichk5ShowsTheInternalChecksum : p13.length = 12 ∧
    Carries (str (p13 ++ []) 0) (asText (p13 ++ [])) ∧
    Carries (str (p13 ++ [1]) 0) (asText (p13 ++ [1])) ∧ [1] = [cd13 p13] ∧
    Carries (str (p13 ++ [2]) 0) (asText (p13 ++ [2])) ∧ [2] ≠ [cd13 p13] :=
  ⟨by decide, carries_str _ _ (by decide), carries_str _ _ (by decide), by decide,
    carries_str _ _ (by decide), by decide⟩

theorem witness_Ichk4ShowsTheInternalChecksum : p13.length = 12 ∧
    Carries (str (p13 ++ []) 0) (asText (p13 ++ [])) ∧
    Carries (str (p13 ++ [1]) 0) (asText (p13 ++ [1])) ∧ [1] = [cd13 p13] ∧
    Carries (str (p13 ++ [2]) 0) (asText (p13 ++ [2])) ∧ [2] ≠ [cd13 p13] :=
  witness_Ichk5ShowsTheInternalChecksum

/-- The largest number, and a template of seven characters. -/
theorem witness_EmbedSynthesisesACode : ∃ (p : List Digit) (o : Operands), p.length = 6 ∧
    6 ≤ o.len.toNat ∧ (∀ (i : Nat) (h : i < 6), o.chars[i] = digitChar (p.getD i 0)) ∧
    o.data.toNat < 99999 :=
  ⟨[2, 9, 1, 2, 3, 4], str [2, 9, 1, 2, 3, 4, 5] 99998, by decide, by decide, by decide, by decide⟩

theorem witness_EmbedFailsInOrder :
    99999 ≤ (str [1] 99999).data.toNat ∧
    ((str [1, 2, 3, 4, 5] 99998).data.toNat < 99999 ∧ (str [1, 2, 3, 4, 5] 99998).len.toNat < 6) ∧
    ∃ o : Operands, o.data.toNat < 99999 ∧ 6 ≤ o.len.toNat ∧
      ∃ (i : Nat) (h : i < 6), ¬(0x30 ≤ o.chars[i].toNat ∧ o.chars[i].toNat ≤ 0x39) :=
  ⟨by decide, by decide, assemble (asText [1, 2, 3, 4, 5] ++ [0x3A]) 0, by decide, by decide, 5,
    by decide, by decide⟩

theorem witness_EmbeddedCodeIsConsistent : ∃ t : State,
    exec (.embed (str [1, 2, 3, 4, 5, 6] 999)) afterK3 = .next t ∧ t.rs.valid = true ∧
    Carries (str (heldDigits t.rs .ean13) 0) (asText (heldDigits t.rs .ean13)) :=
  ⟨_, rfl, by decide +kernel, carries_str _ _ (by decide +kernel)⟩

theorem witness_InternalChecksumsReadOnlyTheirSlice : ∃ g g' : List Digit, g ≠ g' ∧
    ∀ i : Nat, 7 ≤ i → i ≤ 11 → g.getD i 0 = g'.getD i 0 :=
  ⟨p13, 5 :: p13.drop 1, by decide, fun i h₁ h₂ => by interval_cases i <;> rfl⟩

/-- W22: the constant `W5M` misses the value, for `ICHK5` and for `EMBED`. -/
theorem witness_InverseMissFails :
    ∃ (cfg : Config) (t : PwTables), cfg.pw = some t ∧
    (∃ (o : Operands) (b : BarcodeValue), validatedEan13 cfg o = .ok b ∧
      ∀ k : Digit, t.w5m[k].val ≠ (10 - sum5 t b.digits % 10) % 10) ∧
    ∃ (o : Operands) (b : BarcodeValue), o.data.toNat < cfg.embedLimit ∧ 6 ≤ o.len.toNat ∧
      parse cfg ((operandString o).take 6 ++ [0x30] ++ pad5 o.data.toNat) = .ok b ∧
      ∀ k : Digit, t.w5m[k].val ≠ (10 - sum5 t b.digits % 10) % 10 :=
  ⟨{ config with pw := some { pwTables with w5m := Vector.replicate 10 0 } },
    { pwTables with w5m := Vector.replicate 10 0 }, rfl,
    ⟨str [1, 2, 3, 4, 5, 6, 5, 0, 0, 9, 9, 9, 7] 0, _, rfl, by decide +kernel⟩,
    str [1, 2, 3, 4, 5, 6] 999, _, by decide, by decide, rfl, by decide +kernel⟩

theorem witness_NopChangesNothing : (⟨afterK3.rs, [⟨false, false, 1⟩]⟩ : State).edges =
    ⟨false, false, 1⟩ :: [] := rfl

theorem witness_ClearGivesTheResetRegisters : ∃ t : State, Executing (.clear none0) ∧
    exec (.clear none0) afterK3 = .next t ∧ t.rs.valid = false ∧ t.rs.cause = 0 :=
  ⟨_, trivial, rfl, rfl, rfl⟩

theorem witness_ReservedOpcodesAreIllegal :
    (9 ≤ ((9 : CmdWord).extractLsb' 0 8).toNat ∧ 9 ≤ ((255 : CmdWord).extractLsb' 0 8).toNat) ∧
    ∃ cfg : Config, cfg.hasPw = false :=
  ⟨by decide, { config with pw := none }, rfl⟩

end Sys2Proof.Tests
end

/-! ## State: the invariants of R29, the write table of R24 and the ports -/

namespace Sys2Proof.Machine

/-! ### Completing a command, and the codes of the tagged registers -/

/-- The result state after a completed command is the one the command computed. -/
theorem complete_rs {r : ResultState config.bitMax} {s t : State} (h : complete r s = .next t) :
    t.rs = r := by
  rw [(complete_next_iff r s t).1 h]

@[simp] theorem Encoding.code_ne_zero (e : Encoding) : e.code ≠ 0#2 := by cases e <;> decide

theorem Encoding.code_injective {e e' : Encoding} (h : e.code = e'.code) : e = e' := by
  revert h
  cases e <;> cases e' <;> decide

theorem Cause.code_ne_zero (c : Cause) : c.code ≠ 0 := by cases c <;> decide

theorem Cause.code_le_six (c : Cause) : c.code.toNat ≤ 6 := by cases c <;> decide

theorem nibble_le_nine (d : Digit) : (nibble d).toNat ≤ 9 := by
  rw [nibble_toNat]
  omega

theorem loadDigits_getElem_le_nine (g : List Digit) (i : Nat) (h : i < 14) :
    (loadDigits g)[i].toNat ≤ 9 := by
  rw [loadDigits_getElem]
  exact nibble_le_nine _

/-! ### The encoding of a parsed value -/

/-- The length of the string alone decides the encoding (R57). -/
theorem parse_ok_classify {cfg : Config} {s : List Byte} {b : BarcodeValue}
    (h : parse cfg s = .ok b) : (classify s.length).map StringClass.enc = some b.enc := by
  obtain ⟨k, p, hk, -, he, -⟩ := parse_ok cfg s b h
  rw [classifyString_mem cfg s k hk, he, Option.map_some]

theorem parse_ok_enc_ean8 {cfg : Config} {s : List Byte} {b : BarcodeValue}
    (h : parse cfg s = .ok b) (hs : s.length = 8) : b.enc = .ean8 := by
  have hc := parse_ok_classify h
  rw [hs] at hc
  exact (Option.some.inj hc).symm

theorem parse_ok_enc_ean13 {cfg : Config} {s : List Byte} {b : BarcodeValue}
    (h : parse cfg s = .ok b) (hs : s.length = 12 ∨ s.length = 13) : b.enc = .ean13 := by
  have hc := parse_ok_classify h
  rcases hs with hs | hs <;> rw [hs] at hc <;> exact (Option.some.inj hc).symm

/-! ### What each command can answer -/

/-- A result that is a failure, or a parsed value with some result digit (R24, R77). -/
def CodeOrFailure (cfg : Config) (r : ResultState cfg.bitMax) : Prop :=
  (∃ c, r = failed c) ∨ ∃ s b d, parse cfg s = .ok b ∧ r = publishCode b d

/-- A result that is a failure, or a parsed EAN-13 with some result digit (R24, R90, R96). -/
def Ean13OrFailure (cfg : Config) (r : ResultState cfg.bitMax) : Prop :=
  (∃ c, r = failed c) ∨
    ∃ s b d, parse cfg s = .ok b ∧ b.enc = .ean13 ∧ r = publishCode b d

theorem Ean13OrFailure.codeOrFailure {cfg : Config} {r : ResultState cfg.bitMax}
    (h : Ean13OrFailure cfg r) : CodeOrFailure cfg r := by
  obtain hf | ⟨s, b, d, hb, -, hr⟩ := h
  · exact .inl hf
  · exact .inr ⟨s, b, d, hb, hr⟩

theorem parseResult_cases (cfg : Config) (o : Operands) :
    CodeOrFailure cfg (parseResult cfg o) := by
  unfold parseResult
  cases h : parse cfg (operandString o) with
  | error c => exact .inl ⟨c, rfl⟩
  | ok b => exact .inr ⟨_, b, _, h, rfl⟩

theorem chkdigResult_cases (cfg : Config) (o : Operands) :
    (∃ c, chkdigResult cfg o = failed c) ∨ ∃ e d, chkdigResult cfg o = publishDigit e d := by
  unfold chkdigResult
  cases checkDigit cfg (operandString o) with
  | error c => exact .inl ⟨c, rfl⟩
  | ok r => exact .inr ⟨r.1, r.2, rfl⟩

/-- `ENCODE` fails, or shows a parsed EAN-13 or EAN-8 with its own layout (R105, R109). -/
theorem encodeResult_cases (cfg : Config) (o : Operands) :
    (∃ c, encodeResult cfg o = failed c) ∨
    ∃ s b d, parse cfg s = .ok b ∧
      ((b.enc = .ean13 ∧
          encodeResult cfg o = publishBits (publishCode b d) (bits13 cfg b.digits)) ∨
       (b.enc = .ean8 ∧
          encodeResult cfg o = publishBits (publishCode b d) (bits8 cfg b.digits))) := by
  unfold encodeResult
  by_cases hlen : o.len = 8 ∨ o.len = 13
  case neg => exact .inl ⟨.length, if_neg hlen⟩
  rw [if_pos hlen]
  cases h : parse cfg (operandString o) with
  | error c => exact .inl ⟨c, rfl⟩
  | ok b =>
    refine .inr ⟨_, b, b.lastDigit, h, ?_⟩
    obtain h8 | h13 := hlen
    · exact .inr ⟨parse_ok_enc_ean8 h (by simp [h8]), by simp [h8]⟩
    · exact .inl ⟨parse_ok_enc_ean13 h (by simp [h13]), by simp [h13]⟩

/-- What `ICHK5` and `ICHK4` work on is a parsed EAN-13 (R90). -/
theorem validatedEan13_ok {cfg : Config} {o : Operands} {b : BarcodeValue}
    (h : validatedEan13 cfg o = .ok b) :
    parse cfg (operandString o) = .ok b ∧ b.enc = .ean13 := by
  unfold validatedEan13 at h
  split at h
  · next hlen =>
    exact ⟨h, parse_ok_enc_ean13 h (hlen.imp (by simp +contextual) (by simp +contextual))⟩
  · cases h

theorem ichk5Result_cases (cfg : Config) (o : Operands) :
    Ean13OrFailure cfg (ichk5Result cfg o) := by
  unfold ichk5Result
  cases cfg.pw with
  | none => exact .inl ⟨_, rfl⟩
  | some t =>
    cases h : validatedEan13 cfg o with
    | error c => exact .inl ⟨c, rfl⟩
    | ok b =>
      obtain ⟨hb, he⟩ := validatedEan13_ok h
      cases hk : ic5 t b.digits with
      | none => exact .inl ⟨.invmiss, by simp [hk]⟩
      | some k => exact .inr ⟨_, b, k, hb, he, by simp [hk]⟩

theorem ichk4Result_cases (cfg : Config) (o : Operands) :
    Ean13OrFailure cfg (ichk4Result cfg o) := by
  unfold ichk4Result
  cases cfg.pw with
  | none => exact .inl ⟨_, rfl⟩
  | some t =>
    cases h : validatedEan13 cfg o with
    | error c => exact .inl ⟨c, rfl⟩
    | ok b =>
      obtain ⟨hb, he⟩ := validatedEan13_ok h
      exact .inr ⟨_, b, _, hb, he, rfl⟩

/-- A synthesised code is the parse of a string of 12 characters (R93). -/
theorem embedDataInEan_ok {cfg : Config} {pw : PwTables} {t : List Byte} {data : Nat}
    {b : BarcodeValue} (h : embedDataInEan cfg pw t data = .ok b) :
    ∃ s, s.length = 12 ∧ parse cfg s = .ok b := by
  unfold embedDataInEan at h
  split at h
  · cases h
  split at h
  · cases h
  next hlen =>
  have hpad : (pad5 data).length = 5 := rfl
  split at h
  · cases h
  next r1 hr1 =>
  split at h
  · cases h
  next k =>
  have henc : r1.enc = .ean13 := parse_ok_enc_ean13 hr1 (.inl (by simp [hpad]; omega))
  have hcode : r1.code.length = 13 := by
    simp [BarcodeValue.code, parse_ok_length cfg _ r1 hr1, henc, Encoding.size]
  exact ⟨_, by simp [hpad, hcode], h⟩

theorem embedResult_cases (cfg : Config) (o : Operands) :
    Ean13OrFailure cfg (embedResult cfg o) := by
  unfold embedResult
  cases cfg.pw with
  | none => exact .inl ⟨_, rfl⟩
  | some t =>
    cases h : embedDataInEan cfg t (operandString o) o.data.toNat with
    | error c => exact .inl ⟨c, by simp [h]⟩
    | ok b =>
      obtain ⟨s, hs, hb⟩ := embedDataInEan_ok h
      exact .inr ⟨s, b, b.lastDigit, hb, parse_ok_enc_ean13 hb (.inl hs), by simp [h]⟩

/-! ### The invariants of a result, shape by shape -/

/-- A state with at most `CAUSE` set has nothing for I1 to I5 to restrict. -/
theorem resultInv_causeOnly (cfg : Config) (cause : BitVec 3) (h : cause.toNat ≤ 6) :
    ResultInv cfg { ResultState.cleared cfg.bitMax with cause := cause } where
  validMatchesEncoding := by simp [ValidMatchesEncoding]
  heldCodeIsValid := by simp [HeldCodeIsValid]
  heldBitsMatchCode := .inl rfl
  serializerInRange := by simp [SerializerInRange]
  invalidIsEmpty := by simp [InvalidIsEmpty]
  causeIsNamed := h
  elementsAreDigits := by simp [ElementsAreDigits]
  digitsNeedCode := fun _ => rfl

theorem resultInv_cleared (cfg : Config) : ResultInv cfg (ResultState.cleared cfg.bitMax) :=
  resultInv_causeOnly cfg 0 (by decide)

theorem resultInv_failed (cfg : Config) (c : Cause) : ResultInv cfg (failed c) :=
  resultInv_causeOnly cfg c.code c.code_le_six

theorem resultInv_publishDigit (cfg : Config) (e : Encoding) (d : Digit) :
    ResultInv cfg (publishDigit e d) where
  validMatchesEncoding := by simp [ValidMatchesEncoding]
  heldCodeIsValid := by simp [HeldCodeIsValid]
  heldBitsMatchCode := .inl rfl
  serializerInRange := by simp [SerializerInRange]
  invalidIsEmpty := by simp [InvalidIsEmpty]
  causeIsNamed := by simp [CauseIsNamed]
  elementsAreDigits := ⟨nibble_le_nine d, by simp⟩
  digitsNeedCode := fun _ => rfl

/-- I2: a published parsed value is read back whole, and ends in its own check digit. -/
theorem heldCodeIsValid_publishCode {n : Nat} {cfg : Config} {s : List Byte} {b : BarcodeValue}
    (d : Digit) (h : parse cfg s = .ok b) :
    HeldCodeIsValid (publishCode b d : ResultState n) := by
  intro _ e he
  obtain rfl : b.enc = e := Encoding.code_injective he
  have hlen := parse_ok_length cfg s b h
  have hheld : heldDigits (publishCode b d : ResultState n) b.enc = b.digits :=
    heldDigits_loadDigits _ _ _ rfl hlen
  refine ⟨fun i hi _ => loadDigits_getElem_le_nine _ i hi, ?_, fun i hi hsize => ?_⟩
  · rw [hheld]
    exact parse_ok_lastDigit cfg s b h
  · simp [hlen, hsize, nibble]

theorem resultInv_publishCode {cfg : Config} {s : List Byte} {b : BarcodeValue} (d : Digit)
    (h : parse cfg s = .ok b) : ResultInv cfg (publishCode b d) where
  validMatchesEncoding := by simp [ValidMatchesEncoding]
  heldCodeIsValid := heldCodeIsValid_publishCode d h
  heldBitsMatchCode := .inl rfl
  serializerInRange := by simp [SerializerInRange]
  invalidIsEmpty := by simp [InvalidIsEmpty]
  causeIsNamed := by simp [CauseIsNamed]
  elementsAreDigits := ⟨nibble_le_nine d, loadDigits_getElem_le_nine b.digits⟩
  digitsNeedCode := by simp [DigitsNeedCode]

/-! ### The bit sequence and the serializer -/

@[simp] theorem bits13_length (cfg : Config) (g : List Digit) :
    (bits13 cfg g).length = 95 + 2 * cfg.qz := by
  have hleft : ∀ j, (left13 cfg g j).length = 7 := fun j => by
    simp only [left13]
    split <;> rfl
  simp [bits13, core13, quietZone, guardBits, separatorBits, hleft, rightOf, patternBits]
  omega

@[simp] theorem bits8_length (cfg : Config) (g : List Digit) :
    (bits8 cfg g).length = 67 + 2 * cfg.qz := by
  simp [bits8, core8, quietZone, guardBits, separatorBits, left8, rightOf, patternBits]
  omega

theorem publishBits_bitlen_toNat {n : Nat} (rs : ResultState n) {m : BitSeq}
    (hm : m.length ≤ 255) : (publishBits rs m).bitlen.toNat = m.length := by
  simp
  omega

/-- A published bit sequence is read back whole. -/
theorem publishBits_take {n : Nat} (rs : ResultState n) {m : BitSeq} (hn : m.length ≤ n)
    (hm : m.length ≤ 255) :
    (publishBits rs m).bits.toList.take (publishBits rs m).bitlen.toNat = m := by
  rw [publishBits_bitlen_toNat rs hm]
  exact loadBits_take m hn

/-- I4 of a bit sequence that has just been published: the serializer is at its start. -/
theorem serializerInRange_publishBits {n : Nat} {rs : ResultState n} {m : BitSeq}
    (hm : m.length ≤ 255) (hpos : rs.bitpos = 0) (hmodv : rs.modv = false) :
    SerializerInRange (publishBits rs m) := by
  refine ⟨by simp [hpos], fun i hi hle => ?_, by simp [hmodv]⟩
  rw [publishBits_bitlen_toNat rs hm] at hle
  simp [hle]

/-- Putting the layout of the held code beside it keeps the invariants: I3 and I4 are the only
ones that speak of the registers written. -/
theorem resultInv_publishBits {cfg : Config} {rs : ResultState cfg.bitMax} {m : BitSeq}
    (h : ResultInv cfg rs) (hvalid : rs.valid = true) (hpos : rs.bitpos = 0)
    (hmodv : rs.modv = false) (hm : m.length ≤ 255)
    (hbits : HeldBitsMatchCode cfg (publishBits rs m)) : ResultInv cfg (publishBits rs m) :=
  { h with
    heldBitsMatchCode := hbits
    serializerInRange := serializerInRange_publishBits hm hpos hmodv
    invalidIsEmpty := fun hv => by simp [hvalid] at hv }

theorem resultInv_publishBits13 {cfg : Config} {s : List Byte} {b : BarcodeValue} (d : Digit)
    (h : parse cfg s = .ok b) (he : b.enc = .ean13) :
    ResultInv cfg (publishBits (publishCode b d) (bits13 cfg b.digits)) := by
  have hm : (bits13 cfg b.digits).length ≤ 255 := by
    have := cfg.qz_fits
    simp
    omega
  refine resultInv_publishBits (resultInv_publishCode d h) rfl rfl rfl hm
    (.inr (.inr ⟨rfl, by simp [he], ?_, ?_⟩))
  · rw [publishBits_bitlen_toNat _ hm, bits13_length]
  · rw [publishBits_take _ (by simp [Config.bitMax]) hm,
      heldDigits_loadDigits _ _ _ rfl (he ▸ parse_ok_length cfg s b h)]

theorem resultInv_publishBits8 {cfg : Config} {s : List Byte} {b : BarcodeValue} (d : Digit)
    (h : parse cfg s = .ok b) (he : b.enc = .ean8) :
    ResultInv cfg (publishBits (publishCode b d) (bits8 cfg b.digits)) := by
  have hm : (bits8 cfg b.digits).length ≤ 255 := by
    have := cfg.qz_fits
    simp
    omega
  refine resultInv_publishBits (resultInv_publishCode d h) rfl rfl rfl hm
    (.inr (.inl ⟨rfl, by simp [he], ?_, ?_⟩))
  · rw [publishBits_bitlen_toNat _ hm, bits8_length]
  · rw [publishBits_take _ (by simp [Config.bitMax]) hm,
      heldDigits_loadDigits _ _ _ rfl (he ▸ parse_ok_length cfg s b h)]

/-- I3: a held bit sequence fits the register `BITS`. -/
theorem bitlen_le_bitMax_of_resultInv {cfg : Config} {rs : ResultState cfg.bitMax}
    (h : ResultInv cfg rs) : rs.bitlen.toNat ≤ cfg.bitMax := by
  unfold Config.bitMax
  obtain h0 | ⟨-, -, h8, -⟩ | ⟨-, -, h13, -⟩ := h.heldBitsMatchCode <;> omega

/-- I4 is the only invariant that speaks of the three registers `SHIFT` writes. -/
theorem resultInv_withSerializer {cfg : Config} {rs : ResultState cfg.bitMax}
    (h : ResultInv cfg rs) (pos : BitVec 8) (mod modv : Bool)
    (hser : SerializerInRange { rs with bitpos := pos, mod := mod, modv := modv }) :
    ResultInv cfg { rs with bitpos := pos, mod := mod, modv := modv } :=
  { h with serializerInRange := hser }

theorem resultInv_shiftOut {cfg : Config} {rs : ResultState cfg.bitMax} (h : ResultInv cfg rs) :
    ResultInv cfg (shiftOut rs) := by
  obtain ⟨hle, hzero, -⟩ := h.serializerInRange
  by_cases hlt : rs.bitpos.toNat < rs.bitlen.toNat
  · have hmax : rs.bitpos.toNat < cfg.bitMax := hlt.trans_le (bitlen_le_bitMax_of_resultInv h)
    have hpos : (rs.bitpos + 1).toNat = rs.bitpos.toNat + 1 := by bv_omega
    rw [shiftOut_of_lt rs hlt hmax]
    refine resultInv_withSerializer h _ _ _ ⟨?_, hzero, fun _ => ?_⟩
    · rw [hpos]
      exact hlt
    · rw [hpos]
      simp [hmax]
  · rw [shiftOut_at_end rs (Nat.le_of_not_lt hlt)]
    exact resultInv_withSerializer h rs.bitpos _ _ ⟨hle, hzero, by simp⟩

/-! ### Every command and every edge keeps the invariants -/

theorem CodeOrFailure.resultInv {cfg : Config} {r : ResultState cfg.bitMax}
    (h : CodeOrFailure cfg r) : ResultInv cfg r := by
  obtain ⟨c, rfl⟩ | ⟨s, b, d, hb, rfl⟩ := h
  · exact resultInv_failed cfg c
  · exact resultInv_publishCode d hb

theorem resultInv_chkdigResult (cfg : Config) (o : Operands) :
    ResultInv cfg (chkdigResult cfg o) := by
  obtain ⟨c, hr⟩ | ⟨e, d, hr⟩ := chkdigResult_cases cfg o <;> rw [hr]
  · exact resultInv_failed cfg c
  · exact resultInv_publishDigit cfg e d

theorem resultInv_encodeResult (cfg : Config) (o : Operands) :
    ResultInv cfg (encodeResult cfg o) := by
  obtain ⟨c, hr⟩ | ⟨s, b, d, hb, ⟨he, hr⟩ | ⟨he, hr⟩⟩ := encodeResult_cases cfg o <;> rw [hr]
  · exact resultInv_failed cfg c
  · exact resultInv_publishBits13 d hb he
  · exact resultInv_publishBits8 d hb he

theorem machineInv_of_complete {r : ResultState config.bitMax} {s t : State}
    (hr : ResultInv config r) (h : complete r s = .next t) : MachineInv t := by
  unfold MachineInv
  rwa [complete_rs h]

theorem exec_keeps_machineInv (i : Instr) (s t : State) (hs : MachineInv s)
    (h : exec i s = .next t) : MachineInv t := by
  cases i with
  | nop o => exact machineInv_of_complete hs h
  | parse o => exact machineInv_of_complete (parseResult_cases config o).resultInv h
  | chkdig o => exact machineInv_of_complete (resultInv_chkdigResult config o) h
  | encode o => exact machineInv_of_complete (resultInv_encodeResult config o) h
  | shift o => exact machineInv_of_complete (resultInv_shiftOut hs) h
  | ichk5 o =>
    exact machineInv_of_complete (ichk5Result_cases config o).codeOrFailure.resultInv h
  | ichk4 o =>
    exact machineInv_of_complete (ichk4Result_cases config o).codeOrFailure.resultInv h
  | embed o =>
    exact machineInv_of_complete (embedResult_cases config o).codeOrFailure.resultInv h
  | clear o => exact machineInv_of_complete (resultInv_cleared config) h
  | reserved0909 | reserved0A0B | reserved0C0F | reserved101F | reserved203F | reserved407F
  | reserved80FF => exact machineInv_of_complete (resultInv_failed config .illegalOp) h

theorem step_keeps_machineInv (s t : State) (hs : MachineInv s) (h : step s = .next t) :
    MachineInv t := by
  obtain ⟨-, hstep⟩ | ⟨e, rest, -, ⟨-, hstep⟩ | ⟨-, -, hstep⟩ | ⟨-, -, hstep⟩⟩ := step_cases s <;>
    rw [hstep] at h
  · cases h
    exact hs
  · cases h
    exact resultInv_cleared config
  · exact exec_keeps_machineInv _ ⟨s.rs, rest⟩ t hs h
  · cases h
    exact hs

/-- Settles O11: a step is a reset, a command or nothing, and each keeps the invariants. -/
theorem stepKeepsTheInvariant : Obligations.StepKeepsTheInvariant := step_keeps_machineInv

/-- Settles O10. -/
theorem resetMeetsTheInvariant : Obligations.ResetMeetsTheInvariant := resultInv_cleared config

/-! ### The register write table (R24) -/

/-- The row of a success that shows a code: the registers written, over `RS0`. -/
theorem CodeOrFailure.success_row {cfg : Config} {r : ResultState cfg.bitMax}
    (h : CodeOrFailure cfg r) (hv : r.valid = true) :
    r = { ResultState.cleared cfg.bitMax with
      valid := true, enc := r.enc, hascode := true, digits := r.digits, check := r.check } := by
  obtain ⟨c, rfl⟩ | ⟨s, b, d, -, rfl⟩ := h
  · simp at hv
  · rfl

theorem Ean13OrFailure.success_enc {cfg : Config} {r : ResultState cfg.bitMax}
    (h : Ean13OrFailure cfg r) (hv : r.valid = true) : r.enc = Encoding.ean13.code := by
  obtain ⟨c, rfl⟩ | ⟨s, b, d, -, he, rfl⟩ := h
  · simp at hv
  · simp [he]

theorem chkdigResult_success_row (cfg : Config) (o : Operands)
    (hv : (chkdigResult cfg o).valid = true) :
    chkdigResult cfg o = { ResultState.cleared cfg.bitMax with
      valid := true, enc := (chkdigResult cfg o).enc, check := (chkdigResult cfg o).check } := by
  obtain ⟨c, hr⟩ | ⟨e, d, hr⟩ := chkdigResult_cases cfg o <;> rw [hr] at hv ⊢
  · simp at hv
  · rfl

theorem encodeResult_success_row (cfg : Config) (o : Operands)
    (hv : (encodeResult cfg o).valid = true) :
    encodeResult cfg o = { ResultState.cleared cfg.bitMax with
      valid := true, enc := (encodeResult cfg o).enc, hascode := true,
      digits := (encodeResult cfg o).digits, check := (encodeResult cfg o).check,
      bits := (encodeResult cfg o).bits, bitlen := (encodeResult cfg o).bitlen } := by
  obtain ⟨c, hr⟩ | ⟨s, b, d, -, ⟨-, hr⟩ | ⟨-, hr⟩⟩ := encodeResult_cases cfg o <;> rw [hr] at hv ⊢
  · simp at hv
  · rfl
  · rfl

/-- A result is one that `failed` made, or shows `VALID = 1` (R127). -/
def FailedOrValid {n : Nat} (r : ResultState n) : Prop := (∃ c, r = failed c) ∨ r.valid = true

/-- The row of a failure: `RS0` with a cause. -/
theorem FailedOrValid.failure_row {n : Nat} {r : ResultState n} (h : FailedOrValid r)
    (hv : r.valid = false) :
    r.cause ≠ 0 ∧ r = { ResultState.cleared n with cause := r.cause } := by
  obtain ⟨c, rfl⟩ | hv' := h
  · exact ⟨c.code_ne_zero, rfl⟩
  · simp [hv] at hv'

theorem CodeOrFailure.failedOrValid {cfg : Config} {r : ResultState cfg.bitMax}
    (h : CodeOrFailure cfg r) : FailedOrValid r := by
  obtain hf | ⟨s, b, d, -, rfl⟩ := h
  · exact .inl hf
  · exact .inr rfl

theorem failedOrValid_chkdigResult (cfg : Config) (o : Operands) :
    FailedOrValid (chkdigResult cfg o) := by
  obtain hf | ⟨e, d, hr⟩ := chkdigResult_cases cfg o
  · exact .inl hf
  · exact .inr (by rw [hr]; rfl)

theorem failedOrValid_encodeResult (cfg : Config) (o : Operands) :
    FailedOrValid (encodeResult cfg o) := by
  obtain hf | ⟨s, b, d, -, ⟨-, hr⟩ | ⟨-, hr⟩⟩ := encodeResult_cases cfg o
  · exact .inl hf
  · exact .inr (by rw [hr]; rfl)
  · exact .inr (by rw [hr]; rfl)

/-- The failure row, of a completed command. -/
theorem complete_failure_row {r : ResultState config.bitMax} {s : State} (hr : FailedOrValid r) :
    ∀ t : State, complete r s = .next t → t.rs.valid = false →
      t.rs.cause ≠ 0 ∧ t.rs = { ResultState.cleared config.bitMax with cause := t.rs.cause } := by
  intro t h hv
  rw [complete_rs h] at hv ⊢
  exact hr.failure_row hv

/-- The encoding that a completed command of the PW unit shows. -/
theorem complete_success_enc {r : ResultState config.bitMax} {s : State}
    (hr : Ean13OrFailure config r) :
    ∀ t : State, complete r s = .next t → t.rs.valid = true → t.rs.enc = Encoding.ean13.code := by
  intro t h hv
  rw [complete_rs h] at hv ⊢
  exact hr.success_enc hv

/-- Settles O17, row by row. -/
theorem registerWriteTable : Obligations.RegisterWriteTable := by
  intro o op s
  have hparse := parseResult_cases config o
  have hichk5 := ichk5Result_cases config o
  have hichk4 := ichk4Result_cases config o
  have hembed := embedResult_cases config o
  refine ⟨rfl, ⟨_, rfl, rfl, shiftOut_frame s.rs⟩, rfl, ?code, ?ean13,
    ⟨_, rfl, rfl, chkdigResult_success_row config o⟩,
    ⟨_, rfl, rfl, encodeResult_success_row config o⟩, ?failure, ?reserved⟩
  all_goals simp only [List.forall_mem_cons, List.not_mem_nil, false_imp_iff, implies_true,
    and_true]
  case code =>
    exact ⟨⟨_, rfl, rfl, hparse.success_row⟩, ⟨_, rfl, rfl, hichk5.codeOrFailure.success_row⟩,
      ⟨_, rfl, rfl, hichk4.codeOrFailure.success_row⟩,
      ⟨_, rfl, rfl, hembed.codeOrFailure.success_row⟩⟩
  case ean13 =>
    exact ⟨complete_success_enc hichk5, complete_success_enc hichk4, complete_success_enc hembed⟩
  case failure =>
    exact ⟨complete_failure_row hparse.failedOrValid,
      complete_failure_row (failedOrValid_chkdigResult config o),
      complete_failure_row (failedOrValid_encodeResult config o),
      complete_failure_row hichk5.codeOrFailure.failedOrValid,
      complete_failure_row hichk4.codeOrFailure.failedOrValid,
      complete_failure_row hembed.codeOrFailure.failedOrValid⟩
  case reserved => exact ⟨rfl, rfl, rfl, rfl, rfl, rfl, rfl⟩

/-! ### The ports (R23, R27) -/

theorem numberOfBits_testBit (l : List Bool) (i : Nat) :
    (numberOfBits l).testBit i = l.getD i false := by
  induction l generalizing i with
  | nil => simp [numberOfBits]
  | cons b l ih =>
    have hbit : numberOfBits (b :: l) = Nat.bit b (numberOfBits l) := by
      rw [Nat.bit_val, Nat.add_comm, numberOfBits]
    rw [hbit]
    cases i with
    | zero => rw [Nat.testBit_bit_zero, List.getD_cons_zero]
    | succ i => rw [Nat.testBit_bit_succ, ih, List.getD_cons_succ]

theorem bitsPort_getLsbD {n : Nat} (rs : ResultState n) (i : Nat) (h : i < n) :
    (bitsPort rs).getLsbD i = rs.bits[i] := by
  rw [bitsPort, BitVec.getLsbD_ofNat, numberOfBits_testBit]
  simp [h]

theorem extractLsb'_append_nibble_zero {m : Nat} (x : BitVec m) (d : BitVec 4) :
    (x ++ d).extractLsb' (4 * 0) 4 = d := by
  ext j hj
  simp [BitVec.getLsbD_append, hj]

theorem extractLsb'_append_nibble_succ {m : Nat} (x : BitVec m) (d : BitVec 4) (i : Nat) :
    (x ++ d).extractLsb' (4 * (i + 1)) 4 = x.extractLsb' (4 * i) 4 := by
  ext j hj
  have hge : ¬ 4 * (i + 1) + j < 4 := by omega
  have hsub : 4 * (i + 1) + j - 4 = 4 * i + j := by omega
  simp [BitVec.getLsbD_append, hge, hsub]

/-- The nibbles below `DIGITS[i]` are dropped one after the other. -/
theorem digitsPort_extract {n : Nat} (rs : ResultState n) (i : Nat) (h : i < 14) :
    (digitsPort rs).extractLsb' (4 * i) 4 = rs.digits[i] := by
  unfold digitsPort
  obtain rfl | hlt : i = 13 ∨ i < 13 := by omega
  · repeat refine (extractLsb'_append_nibble_succ _ _ _).trans ?_
    exact BitVec.extractLsb'_eq_self
  · interval_cases i
    all_goals
      repeat refine (extractLsb'_append_nibble_succ _ _ _).trans ?_
      exact extractLsb'_append_nibble_zero _ _

/-- Settles O56. -/
theorem arrayPortPacking : Obligations.ArrayPortPacking := fun _ rs =>
  ⟨digitsPort_extract rs, bitsPort_getLsbD rs⟩

/-- The bits of `status`, field by field from the least significant (R23). -/
theorem statusPort_getLsbD {n : Nat} (rs : ResultState n) (i : Nat) :
    (statusPort rs).getLsbD i =
      if i < 1 then rs.valid
      else if i < 4 then rs.cause.getLsbD (i - 1)
      else if i < 6 then rs.enc.getLsbD (i - 4)
      else if i < 7 then rs.hascode
      else false := by
  have hfields : (statusPort rs).getLsbD i = BitVec.getLsbD (w := 1 + 1 + 2 + 3 + 1)
      (0#1 ++ BitVec.ofBool rs.hascode ++ rs.enc ++ rs.cause ++ BitVec.ofBool rs.valid) i := rfl
  rw [hfields]
  simp only [BitVec.getLsbD_append, BitVec.getLsbD_ofBool, BitVec.getLsbD_zero]
  rcases i with _ | _ | _ | _ | _ | _ | _ | i <;> simp

/-- Settles O55. -/
theorem statusPortFields : Obligations.StatusPortFields := by
  refine ⟨fun n rs => ⟨statusPort_getLsbD rs 0, ?cause, ?enc, statusPort_getLsbD rs 6,
    statusPort_getLsbD rs 7⟩, rfl, fun _ _ => ?code, fun _ => ?digit, rfl, rfl⟩
  case cause =>
    ext j hj
    rw [BitVec.getElem_extractLsb', statusPort_getLsbD, if_neg (by omega), if_pos (by omega)]
    simp [BitVec.getLsbD_eq_getElem, hj]
  case enc =>
    ext j hj
    rw [BitVec.getElem_extractLsb', statusPort_getLsbD, if_neg (by omega), if_neg (by omega),
      if_pos (by omega)]
    simp [BitVec.getLsbD_eq_getElem, hj]
  case code => simp [statusPort, shownCode, Encoding.code]
  case digit => simp [statusPort, shownDigit, Encoding.code]

end Sys2Proof.Machine

/-! ## Memory: the lookup tables (R34 to R42) -/

namespace Sys2Proof.Machine

/-! ### The reverse table `W5M_INV` (R42) -/

theorem w5mInv_eq_find? (t : PwTables) (m : Digit) :
    w5mInv t m = Fin.find? fun k => t.w5m[k] == m :=
  Fin.find?_eq_find?_finRange.symm

theorem w5mInv_eq_some_iff (t : PwTables) (m k : Digit) :
    w5mInv t m = some k ↔ t.w5m[k] = m ∧ ∀ j : Digit, j < k → t.w5m[j] ≠ m := by
  rw [w5mInv_eq_find?, Fin.find?_eq_some_iff]
  simp only [beq_iff_eq, beq_eq_false_iff_ne]

theorem w5mInv_eq_none_iff (t : PwTables) (m : Digit) :
    w5mInv t m = none ↔ ∀ k : Digit, t.w5m[k] ≠ m := by
  rw [w5mInv_eq_find?, Fin.find?_eq_none_iff]
  simp only [beq_eq_false_iff_ne]

/-- In a table without repeated entries the smallest digit is the only one. -/
theorem w5mInv_eq_some_iff_of_injective {t : PwTables}
    (ht : Function.Injective fun k : Digit => t.w5m[k]) (m k : Digit) :
    w5mInv t m = some k ↔ t.w5m[k] = m := by
  rw [w5mInv_eq_some_iff]
  refine and_iff_left_of_imp fun hk j hj hjm => hj.ne (ht ?_)
  exact hjm.trans hk.symm

theorem pwTables_w5m_injective : Function.Injective fun k : Digit => pwTables.w5m[k] := by
  decide

theorem w5mInv_pwTables_eq_some_iff (m k : Digit) :
    w5mInv pwTables m = some k ↔ lutW5m[k] = m :=
  w5mInv_eq_some_iff_of_injective pwTables_w5m_injective m k

/-- The list printed with R42. -/
def lutW5mInv : Vector Digit 10 := #v[0, 9, 7, 5, 3, 1, 8, 6, 4, 2]

theorem lutW5m_lutW5mInv (m : Digit) : lutW5m[lutW5mInv[m]] = m := by
  revert m
  decide

theorem w5mInv_pwTables (m : Digit) : w5mInv pwTables m = some lutW5mInv[m] :=
  (w5mInv_pwTables_eq_some_iff m _).2 (lutW5m_lutW5mInv m)

/-- Settles O43: the search is `Fin.find?`, and the printed list is a right inverse of the
permutation `W5M`. -/
theorem reverseTableIsTheInverse : Obligations.ReverseTableIsTheInverse := by
  refine ⟨w5mInv_eq_some_iff, w5mInv_eq_none_iff, ?_⟩
  rw [funext w5mInv_pwTables]
  rfl

/-! ### The pattern tables (R34 to R37) -/

theorem lutParity_nodup : lutParity.toList.Nodup := by decide

theorem lutParity_first (d : Digit) : lutParity[d].getMsbD 0 = false := by
  revert d
  decide

theorem lutParity_even_count (d : Digit) (hd : d ≠ 0) :
    ((List.range 6).filter fun j => lutParity[d].getMsbD j).length = 3 := by
  revert d
  decide

theorem lutRight_eq_not_lutLodd (d : Digit) : lutRight[d] = ~~~lutLodd[d] := by
  revert d
  decide

theorem patternBits_lutLeven (d : Digit) :
    patternBits lutLeven[d] = (patternBits lutRight[d]).reverse := by
  revert d
  decide

/-- A pattern that is another one read right to left, module by module. -/
theorem getMsbD_of_patternBits_eq_reverse {p q : BitVec 7}
    (h : patternBits p = (patternBits q).reverse) :
    p.getMsbD 0 = q.getMsbD 6 ∧ p.getMsbD 6 = q.getMsbD 0 := by
  obtain ⟨h0, -, -, -, -, -, h6⟩ : _ ∧ _ ∧ _ ∧ _ ∧ _ ∧ _ ∧ _ := by
    simpa [patternBits] using h
  exact ⟨h0, h6⟩

theorem lutLodd_ends (d : Digit) :
    lutLodd[d].getMsbD 0 = false ∧ lutLodd[d].getMsbD 6 = true := by
  revert d
  decide

theorem lutRight_ends (d : Digit) :
    lutRight[d].getMsbD 0 = true ∧ lutRight[d].getMsbD 6 = false := by
  obtain ⟨h0, h6⟩ := lutLodd_ends d
  rw [lutRight_eq_not_lutLodd, BitVec.getMsbD_not, BitVec.getMsbD_not, h0, h6]
  decide

theorem lutLeven_ends (d : Digit) :
    lutLeven[d].getMsbD 0 = false ∧ lutLeven[d].getMsbD 6 = true := by
  obtain ⟨h0, h6⟩ := getMsbD_of_patternBits_eq_reverse (patternBits_lutLeven d)
  rw [h0, h6]
  exact (lutRight_ends d).symm

theorem lutLodd_odd (d : Digit) : ((patternBits lutLodd[d]).filter id).length % 2 = 1 := by
  revert d
  decide

theorem lutLeven_even (d : Digit) : ((patternBits lutLeven[d]).filter id).length % 2 = 0 := by
  revert d
  decide

/-- The four runs of a pattern: two bars and two spaces. -/
theorem pattern_runs (d : Digit) :
    ∀ b ∈ [patternBits lutLodd[d], patternBits lutLeven[d], patternBits lutRight[d]],
      runsOf true false b = 2 ∧ runsOf false true b = 2 := by
  revert d
  decide

theorem patterns_nodup : (lutLodd.toList ++ lutLeven.toList ++ lutRight.toList).Nodup := by
  decide

/-- Settles O41: the ends of `RIGHT` and `LEVEN` follow from those of `LODD`, by complement and by
reversal; the other facts are read off the entries. -/
theorem patternTableFacts : Obligations.PatternTableFacts := by
  refine ⟨lutParity_nodup, lutParity_first, lutParity_even_count, rfl, fun d => ?_,
    patterns_nodup⟩
  obtain ⟨hodd0, hodd6⟩ := lutLodd_ends d
  obtain ⟨heven0, heven6⟩ := lutLeven_ends d
  obtain ⟨hright0, hright6⟩ := lutRight_ends d
  exact ⟨lutRight_eq_not_lutLodd d, patternBits_lutLeven d, hodd0, hodd6, heven0, heven6,
    hright0, hright6, lutLodd_odd d, lutLeven_even d, pattern_runs d⟩

/-! ### The weighting tables (R38 to R41) -/

theorem lutW2m_val (d : Digit) : lutW2m[d].val = (2 * d.val - 2 * d.val / 10) % 10 := by
  revert d
  decide

theorem lutW3_val (d : Digit) : lutW3[d].val = (3 * d.val) % 10 := by
  revert d
  decide

theorem lutW5p_val (d : Digit) : lutW5p[d].val = (5 * d.val + 5 * d.val / 10) % 10 := by
  revert d
  decide

theorem lutW5m_val (d : Digit) : lutW5m[d].val = (5 * d.val - 5 * d.val / 10) % 10 := by
  revert d
  decide

/-- Settles O42: the closed forms and the permutations, table by table. -/
theorem weightTableClosedForms : Obligations.WeightTableClosedForms := by
  refine ⟨fun d => ⟨lutW2m_val d, lutW3_val d, lutW5p_val d, lutW5m_val d⟩, ?w2m, ?w3, ?w5p, ?w5m⟩
  case w2m => decide
  case w3 => decide
  case w5p => decide
  case w5m => decide

end Sys2Proof.Machine

/-! ## Encoding: the decoder and the encoder (R50 to R53) -/

namespace Sys2Proof

/-! ### Bytes and fields of a word (R50) -/

theorem byteOf_getLsbD (w : CmdWord) (k j : Nat) (hj : j < 8) :
    (byteOf w k).getLsbD j = w.getLsbD (8 * k + j) := by
  simp [byteOf, hj]

/-- A command word is determined by its 22 bytes. -/
theorem eq_of_byteOf_eq {v w : CmdWord} (h : ∀ k < 22, byteOf v k = byteOf w k) : v = w := by
  refine BitVec.eq_of_getLsbD_eq fun i hi => ?_
  have hbit := byteOf_getLsbD v (i / 8) (i % 8) (by omega)
  rw [h (i / 8) (by omega), byteOf_getLsbD w _ _ (by omega), Nat.div_add_mod] at hbit
  exact hbit.symm

theorem dataField_extract (w : CmdWord) (j : Nat) (h : j < 4) :
    (dataField w).extractLsb' (8 * j) 8 = byteOf w (2 + j) := by
  ext b hb
  have hbit : 8 * j + b < 32 := by omega
  have hstart : 16 + (8 * j + b) = 8 * (2 + j) + b := by omega
  simp [dataField, byteOf, hbit, hstart]

theorem charsField_getElem (w : CmdWord) (i : Nat) (h : i < 16) :
    (charsField w)[i] = byteOf w (6 + i) := by
  interval_cases i <;> rfl

/-- A command word is determined by its fields: they leave out no byte. -/
theorem eq_of_fields_eq {v w : CmdWord} (hop : opField v = opField w)
    (ho : operandsField v = operandsField w) : v = w := by
  obtain ⟨hlen, hdata, hchars⟩ :
      lenField v = lenField w ∧ dataField v = dataField w ∧ charsField v = charsField w := by
    simpa [operandsField] using ho
  refine eq_of_byteOf_eq fun k hk => ?_
  obtain rfl | rfl | ⟨j, hj, rfl⟩ | ⟨i, hi, rfl⟩ :
      k = 0 ∨ k = 1 ∨ (∃ j < 4, k = 2 + j) ∨ ∃ i < 16, k = 6 + i := by
    by_cases h2 : k < 2
    · omega
    by_cases h6 : k < 6
    · exact .inr (.inr (.inl ⟨k - 2, by omega, by omega⟩))
    · exact .inr (.inr (.inr ⟨k - 6, by omega, by omega⟩))
  · exact hop
  · exact hlen
  · rw [← dataField_extract v j hj, ← dataField_extract w j hj, hdata]
  · simp only [← charsField_getElem _ i hi, hchars]

/-! ### The packed word (R50) -/

@[simp] theorem opField_packWord (op : Byte) (o : Operands) : opField (packWord op o) = op :=
  BitVec.extractLsb'_append_eq_right

@[simp] theorem lenField_packWord (op : Byte) (o : Operands) :
    lenField (packWord op o) = o.len :=
  (BitVec.extractLsb'_append_eq_of_le (by decide)).trans BitVec.extractLsb'_append_eq_right

@[simp] theorem dataField_packWord (op : Byte) (o : Operands) :
    dataField (packWord op o) = o.data :=
  (BitVec.extractLsb'_append_eq_of_le (by decide)).trans
    ((BitVec.extractLsb'_append_eq_of_le (by decide)).trans BitVec.extractLsb'_append_eq_right)

theorem packChars_extract (chars : Vector Byte 16) (i : Nat) (h : i < 16) :
    (packChars chars).extractLsb' (8 * i) 8 = chars[i] := by
  unfold packChars
  obtain rfl | hlt : i = 15 ∨ i < 15 := by omega
  · repeat refine (BitVec.extractLsb'_append_eq_of_le (by decide)).trans ?_
    exact BitVec.extractLsb'_eq_self
  · interval_cases i
    all_goals
      repeat refine (BitVec.extractLsb'_append_eq_of_le (by decide)).trans ?_
      exact BitVec.extractLsb'_append_eq_right

theorem byteOf_packWord_chars (op : Byte) (o : Operands) (i : Nat) (h : i < 16) :
    byteOf (packWord op o) (6 + i) = o.chars[i] := by
  have hstart : 8 * (6 + i) - 8 - 8 - 32 = 8 * i := by omega
  rw [← packChars_extract o.chars i h, ← hstart]
  exact (BitVec.extractLsb'_append_eq_of_le (by omega)).trans
    ((BitVec.extractLsb'_append_eq_of_le (by omega)).trans
      (BitVec.extractLsb'_append_eq_of_le (by omega)))

@[simp] theorem charsField_packWord (op : Byte) (o : Operands) :
    charsField (packWord op o) = o.chars := by
  ext1 i hi
  rw [charsField_getElem, byteOf_packWord_chars]

@[simp] theorem operandsField_packWord (op : Byte) (o : Operands) :
    operandsField (packWord op o) = o := by
  simp [operandsField]

/-- The fields of a word, put back in their places, are the word. -/
theorem packWord_fields (w : CmdWord) : packWord (opField w) (operandsField w) = w :=
  eq_of_fields_eq (opField_packWord _ _) (operandsField_packWord _ _)

/-! ### The rows of the opcode table as ranges (R52) -/

/-- The match and mask of each reserved row that covers several opcodes is a range. -/
theorem mask_eq_iff_range : ∀ op : Byte,
    (op &&& 0xFE = 0x0A ↔ 0x0A ≤ op.toNat ∧ op.toNat ≤ 0x0B) ∧
    (op &&& 0xFC = 0x0C ↔ 0x0C ≤ op.toNat ∧ op.toNat ≤ 0x0F) ∧
    (op &&& 0xF0 = 0x10 ↔ 0x10 ≤ op.toNat ∧ op.toNat ≤ 0x1F) ∧
    (op &&& 0xE0 = 0x20 ↔ 0x20 ≤ op.toNat ∧ op.toNat ≤ 0x3F) ∧
    (op &&& 0xC0 = 0x40 ↔ 0x40 ≤ op.toNat ∧ op.toNat ≤ 0x7F) := by decide

/-- The match and full mask of a row of one opcode. -/
theorem mask_full_eq_iff (op lit : Byte) : op &&& 0xFF = lit ↔ op.toNat = lit.toNat := by
  rw [BitVec.toNat_inj]
  exact Iff.of_eq (congrArg (· = lit) BitVec.and_allOnes)

/-- The decoder, row by row, with the range of opcodes that leads there. -/
theorem instrOf_eq_ranges (op : Byte) (o : Operands) : instrOf op o =
    if op.toNat = 0x00 then .nop o
    else if op.toNat = 0x01 then .parse o
    else if op.toNat = 0x02 then .chkdig o
    else if op.toNat = 0x03 then .encode o
    else if op.toNat = 0x04 then .shift o
    else if op.toNat = 0x05 then .ichk5 o
    else if op.toNat = 0x06 then .ichk4 o
    else if op.toNat = 0x07 then .embed o
    else if op.toNat = 0x08 then .clear o
    else if op.toNat = 0x09 then .reserved0909 o
    else if 0x0A ≤ op.toNat ∧ op.toNat ≤ 0x0B then .reserved0A0B op o
    else if 0x0C ≤ op.toNat ∧ op.toNat ≤ 0x0F then .reserved0C0F op o
    else if 0x10 ≤ op.toNat ∧ op.toNat ≤ 0x1F then .reserved101F op o
    else if 0x20 ≤ op.toNat ∧ op.toNat ≤ 0x3F then .reserved203F op o
    else if 0x40 ≤ op.toNat ∧ op.toNat ≤ 0x7F then .reserved407F op o
    else .reserved80FF op o := by
  obtain ⟨hFE, hFC, hF0, hE0, hC0⟩ := mask_eq_iff_range op
  simp only [instrOf, mask_full_eq_iff, hFE, hFC, hF0, hE0, hC0]
  rfl

/-- A well-formed command is what the decoder makes of its own opcode and operands. -/
theorem instrOf_of_wellFormed (i : Instr) (h : i.wellFormed = true) :
    instrOf i.opcode i.operands = i := by
  cases i
  case nop | parse | chkdig | encode | shift | ichk5 | ichk4 | embed | clear | reserved0909 =>
    simp [instrOf_eq_ranges, Instr.opcode, Instr.operands]
  all_goals
    simp only [Instr.wellFormed, opcodeIn, Bool.and_eq_true, decide_eq_true_eq,
      BitVec.reduceToNat] at h
    simp only [Instr.opcode, Instr.operands]
    rw [instrOf_eq_ranges]
    simp (disch := omega) only [if_pos, if_neg]

/-- The ranges of the opcode table leave out no opcode. -/
theorem opcode_in_some_row : ∀ op : Byte,
    op = 0x00 ∨ op = 0x01 ∨ op = 0x02 ∨ op = 0x03 ∨ op = 0x04 ∨ op = 0x05 ∨ op = 0x06 ∨
    op = 0x07 ∨ op = 0x08 ∨ op = 0x09 ∨ opcodeIn 0x0A 0x0B op = true ∨
    opcodeIn 0x0C 0x0F op = true ∨ opcodeIn 0x10 0x1F op = true ∨ opcodeIn 0x20 0x3F op = true ∨
    opcodeIn 0x40 0x7F op = true ∨ opcodeIn 0x80 0xFF op = true := by decide

/-- Every opcode with any operands is a well-formed command. -/
theorem exists_wellFormed (op : Byte) (o : Operands) :
    ∃ i : Instr, i.wellFormed = true ∧ i.opcode = op ∧ i.operands = o := by
  obtain rfl | rfl | rfl | rfl | rfl | rfl | rfl | rfl | rfl | rfl | h | h | h | h | h | h :=
    opcode_in_some_row op
  · exact ⟨.nop o, rfl, rfl, rfl⟩
  · exact ⟨.parse o, rfl, rfl, rfl⟩
  · exact ⟨.chkdig o, rfl, rfl, rfl⟩
  · exact ⟨.encode o, rfl, rfl, rfl⟩
  · exact ⟨.shift o, rfl, rfl, rfl⟩
  · exact ⟨.ichk5 o, rfl, rfl, rfl⟩
  · exact ⟨.ichk4 o, rfl, rfl, rfl⟩
  · exact ⟨.embed o, rfl, rfl, rfl⟩
  · exact ⟨.clear o, rfl, rfl, rfl⟩
  · exact ⟨.reserved0909 o, rfl, rfl, rfl⟩
  · exact ⟨.reserved0A0B op o, h, rfl, rfl⟩
  · exact ⟨.reserved0C0F op o, h, rfl, rfl⟩
  · exact ⟨.reserved101F op o, h, rfl, rfl⟩
  · exact ⟨.reserved203F op o, h, rfl, rfl⟩
  · exact ⟨.reserved407F op o, h, rfl, rfl⟩
  · exact ⟨.reserved80FF op o, h, rfl, rfl⟩

/-- The command of an opcode is well formed and keeps the opcode and the operands. -/
theorem instrOf_spec (op : Byte) (o : Operands) : (instrOf op o).wellFormed = true ∧
    (instrOf op o).opcode = op ∧ (instrOf op o).operands = o := by
  obtain ⟨i, hi, rfl, rfl⟩ := exists_wellFormed op o
  rw [instrOf_of_wellFormed i hi]
  exact ⟨hi, rfl, rfl⟩

@[simp] theorem decodeWord_opcode (w : CmdWord) : (decodeWord w).opcode = opField w :=
  (instrOf_spec _ _).2.1

@[simp] theorem decodeWord_operands (w : CmdWord) : (decodeWord w).operands = operandsField w :=
  (instrOf_spec _ _).2.2

/-! ### The decoder and the encoder -/

theorem decodeWord_encodeWord (i : Instr) (h : i.wellFormed = true) :
    decodeWord (encodeWord i) = i := by
  rw [decodeWord, encodeWord, opField_packWord, operandsField_packWord, instrOf_of_wellFormed i h]

/-- Settles O1: the fields are read back from the packed word, and the opcode leads to the row. -/
theorem decodeInvertsEncode : Obligations.DecodeInvertsEncode := decodeWord_encodeWord

/-- Settles O2: the command keeps the opcode and the operands of the word, and a word is determined
by its fields. -/
theorem encodeInvertsDecode : Obligations.EncodeInvertsDecode := by
  refine fun w => ⟨(instrOf_spec _ _).1, ?_⟩
  rw [encodeWord, decodeWord_opcode, decodeWord_operands, packWord_fields]

/-! ### Byte strings (R50) -/

/-- The word of a byte string has the bytes of the string; those after the first 22 are lost. -/
theorem byteOf_wordOfBytes (bs : List Byte) (k : Nat) (hk : k < 22) :
    byteOf (wordOfBytes bs) k = bs.getD k 0 := by
  induction bs generalizing k with
  | nil => simp [wordOfBytes, byteOf]
  | cons b bs ih =>
    have hcons : wordOfBytes (b :: bs) = wordOfBytes bs <<< 8 ||| b.setWidth 176 := rfl
    rw [hcons]
    refine BitVec.eq_of_getLsbD_eq fun j hj => ?_
    rw [byteOf_getLsbD _ _ _ hj, BitVec.getLsbD_or, BitVec.getLsbD_shiftLeft,
      BitVec.getLsbD_setWidth]
    cases k with
    | zero =>
      have h176 : j < 176 := by omega
      simp [hj, h176]
    | succ k =>
      have hbit : 8 * (k + 1) + j - 8 = 8 * k + j := by omega
      have hin : 8 * (k + 1) + j < 176 := by omega
      have hhigh : ¬8 * (k + 1) + j < 8 := by omega
      rw [List.getD_cons_succ, ← ih k (by omega), byteOf_getLsbD _ _ _ hj, hbit]
      simp [hin, hhigh, BitVec.getLsbD_of_ge b (8 * (k + 1) + j) (by omega)]

@[simp] theorem bytesOfWord_length (w : CmdWord) : (bytesOfWord w).length = 22 := by
  simp [bytesOfWord]

theorem wordOfBytes_bytesOfWord (w : CmdWord) : wordOfBytes (bytesOfWord w) = w := by
  refine eq_of_byteOf_eq fun k hk => ?_
  rw [byteOf_wordOfBytes _ k hk]
  simp [bytesOfWord, hk]

/-- The bytes of a word in front of other bytes are decoded as that word. -/
theorem decode_bytesOfWord_append (w : CmdWord) (rest : List Byte) :
    decode (bytesOfWord w ++ rest) = .ok (decodeWord w, rest) := by
  have hlen : ¬(bytesOfWord w ++ rest).length < 22 := by simp
  rw [decode, if_neg hlen, List.take_left' (bytesOfWord_length w),
    List.drop_left' (bytesOfWord_length w), wordOfBytes_bytesOfWord]

/-- Settles O3. -/
theorem byteDecoderInvertsByteEncoder : Obligations.ByteDecoderInvertsByteEncoder := by
  refine fun i rest h => ⟨bytesOfWord_length _, ?_⟩
  rw [encode, decode_bytesOfWord_append, decodeWord_encodeWord i h]

/-- Settles O4. -/
theorem shortByteStringsAreRejected : Obligations.ShortByteStringsAreRejected :=
  fun _ h => if_pos h

/-! ### The layout of the word and the opcode table -/

/-- `DATA` is little-endian. -/
theorem dataField_toNat (w : CmdWord) : (dataField w).toNat =
    (byteOf w 2).toNat + 256 * (byteOf w 3).toNat + 65536 * (byteOf w 4).toNat +
      16777216 * (byteOf w 5).toNat := by
  simp only [dataField, byteOf, BitVec.extractLsb'_toNat, Nat.shiftRight_eq_div_pow]
  omega

/-- Settles O5. -/
theorem commandWordFields : Obligations.CommandWordFields := by
  intro w
  rw [decodeWord_opcode, decodeWord_operands]
  exact ⟨rfl, rfl, dataField_toNat w, charsField_getElem w⟩

/-- Settles O6, opcode by opcode. -/
theorem everyOpcodeMatchesOneRow : Obligations.EveryOpcodeMatchesOneRow := by
  unfold Obligations.EveryOpcodeMatchesOneRow
  decide

/-- Settles O7: the decoder is run on the three byte strings. -/
theorem printedWordsDecode : Obligations.PrintedWordsDecode := by
  unfold Obligations.PrintedWordsDecode
  decide

end Sys2Proof

/-! ## Operands: unused fields, lengths and characters (R51, R54 to R59) -/

namespace Sys2Proof.Machine

/-- Settles O23. -/
theorem lengthDispatchTable : Obligations.LengthDispatchTable :=
  ⟨rfl, rfl, rfl, rfl, rfl, rfl, classify_eq_none⟩

/-! ### What the string operand depends on -/

theorem chars_take_congr {chars chars' : Vector Byte 16} (k : Nat)
    (h : ∀ (i : Nat) (hi : i < 16), i < k → chars[i] = chars'[i]) :
    chars.toList.take k = chars'.toList.take k := by
  refine List.ext_getElem (by simp) fun i h₁ h₂ => ?_
  obtain ⟨hk, hi⟩ : i < k ∧ i < 16 := by simpa using h₁
  simpa using h i hi hk

/-- The string operand is a function of `LEN` and of the characters below `LEN` (R51, R54). -/
theorem operandString_congr {o o' : Operands} (hlen : o.len = o'.len)
    (h : ∀ (i : Nat) (hi : i < 16), i < o.len.toNat → o.chars[i] = o'.chars[i]) :
    operandString o = operandString o' := by
  rw [operandString, operandString, chars_take_congr _ h, hlen]

theorem operandString_take (o : Operands) (k : Nat) (hk : k ≤ o.len.toNat) (h16 : k ≤ 16) :
    (operandString o).take k = o.chars.toList.take k := by
  rw [operandString, List.take_append_of_le_length (by simp; omega), List.take_take,
    Nat.min_eq_left hk]

/-- `embedDataInEan` reads the length of the template and its first six characters (R93). -/
theorem embedDataInEan_congr (cfg : Config) (pw : PwTables) {t t' : List Byte} (data : Nat)
    (hlen : t.length = t'.length) (h : 6 ≤ t.length → t.take 6 = t'.take 6) :
    embedDataInEan cfg pw t data = embedDataInEan cfg pw t' data := by
  rw [embedDataInEan, embedDataInEan, ← hlen]
  by_cases hshort : t.length < 6
  · rw [if_pos hshort, if_pos hshort]
  · rw [h (Nat.le_of_not_lt hshort)]

/-- The results of `PARSE`, `CHKDIG`, `ENCODE`, `ICHK5` and `ICHK4` are functions of `LEN` and of
the string operand. -/
theorem stringResults_congr (cfg : Config) {o o' : Operands} (hlen : o.len = o'.len)
    (hs : operandString o = operandString o') :
    parseResult cfg o = parseResult cfg o' ∧ chkdigResult cfg o = chkdigResult cfg o' ∧
    encodeResult cfg o = encodeResult cfg o' ∧ ichk5Result cfg o = ichk5Result cfg o' ∧
    ichk4Result cfg o = ichk4Result cfg o' := by
  simp only [parseResult, chkdigResult, encodeResult, ichk5Result, ichk4Result, validatedEan13,
    hlen, hs, and_self]

theorem embedResult_congr (cfg : Config) {o o' : Operands} (hlen : o.len = o'.len)
    (hdata : o.data = o'.data)
    (h : 6 ≤ o.len.toNat → ∀ (i : Nat) (hi : i < 6), o.chars[i] = o'.chars[i]) :
    embedResult cfg o = embedResult cfg o' := by
  have htake : 6 ≤ (operandString o).length →
      (operandString o).take 6 = (operandString o').take 6 := by
    intro h6
    rw [operandString_length] at h6
    rw [operandString_take o 6 h6 (by decide), operandString_take o' 6 (hlen ▸ h6) (by decide)]
    exact chars_take_congr 6 fun i _ hi => h h6 i hi
  have hembed := fun t => embedDataInEan_congr cfg t o.data.toNat (by simp [hlen]) htake
  simp only [embedResult, hembed, ← hdata]

/-- Settles O19: each command is a function of the string operand, or of what `embedDataInEan`
reads, or of no operand. -/
theorem unusedFieldsAreIgnored : Obligations.UnusedFieldsAreIgnored := by
  refine ⟨fun _ _ _ _ => ⟨rfl, rfl, rfl, rfl, rfl, rfl, rfl, rfl, rfl, rfl⟩,
    fun o o' s hlen h => ?_, fun o o' s hlen hdata h => ?_⟩
  · obtain ⟨hparse, hchkdig, hencode, hichk5, hichk4⟩ :=
      stringResults_congr config hlen (operandString_congr hlen h)
    exact ⟨congrArg (complete · s) hparse, congrArg (complete · s) hchkdig,
      congrArg (complete · s) hencode, congrArg (complete · s) hichk5,
      congrArg (complete · s) hichk4⟩
  · exact congrArg (complete · s) (embedResult_congr config hlen hdata h)

/-! ### Strings longer than a command word -/

theorem classifyString_of_long (cfg : Config) (t : List Byte) (h : 16 < t.length) :
    classifyString cfg t = none := by
  refine classifyString_eq_none cfg t fun hmem => ?_
  simp only [List.mem_cons, List.not_mem_nil, or_false] at hmem
  omega

theorem encodeString_of_long (cfg : Config) (t : List Byte) (h : 16 < t.length) :
    encodeString cfg t = .error .length := by
  rw [encodeString, if_neg (by omega), if_neg (by omega)]

/-- Settles O20: a string of at most 16 characters is carried whole, a longer one is refused for
its length alone, and `embedDataInEan` reads six characters. -/
theorem uncarriedCharactersNeverMatter : Obligations.UncarriedCharactersNeverMatter := by
  intro cfg pw o t data ht
  have ho := carries_operandString o
  have hlen : (operandString o).length = t.length := ho.1.symm.trans ht.1
  have hembed := embedDataInEan_congr cfg pw data hlen
    fun _ => carries_take o _ _ ho ht 6 (by decide)
  obtain h16 | h16 := Nat.lt_or_ge 16 t.length
  · have ho16 := hlen ▸ h16
    refine ⟨ho, ?_, ?_, ?_, hembed⟩
    · rw [parse_of_class_none _ _ (classifyString_of_long cfg _ ho16),
        parse_of_class_none _ _ (classifyString_of_long cfg _ h16)]
    · rw [checkDigit_of_class_none _ _ (classifyString_of_long cfg _ ho16),
        checkDigit_of_class_none _ _ (classifyString_of_long cfg _ h16)]
    · rw [encodeString_of_long cfg _ ho16, encodeString_of_long cfg _ h16]
  · rw [operandString_eq o t ht h16]
    exact ⟨ht, rfl, rfl, rfl, rfl⟩

/-! ### How a failure of the string operand reaches the result -/

theorem failed_eq_shownFailure (c : Cause) :
    (failed c : ResultState config.bitMax) = shownFailure c.code := rfl

/-- A command whose result is a failure. -/
theorem complete_of_failed {r : ResultState config.bitMax} {c : Cause} (s : State)
    (h : r = failed c) : complete r s = .next ⟨shownFailure c.code, s.edges⟩ := by
  rw [h, failed_eq_shownFailure, complete_eq_next]

theorem parseResult_of_error {cfg : Config} {o : Operands} {c : Cause}
    (h : parse cfg (operandString o) = .error c) : parseResult cfg o = failed c := by
  rw [parseResult, h]

theorem chkdigResult_of_error {cfg : Config} {o : Operands} {c : Cause}
    (h : checkDigit cfg (operandString o) = .error c) : chkdigResult cfg o = failed c := by
  rw [chkdigResult, h]

theorem encodeResult_of_error {cfg : Config} {o : Operands} {c : Cause} (hlen : o.len ∈ [8, 13])
    (h : parse cfg (operandString o) = .error c) : encodeResult cfg o = failed c := by
  rw [encodeResult, if_pos (by simpa using hlen), h]

/-- `ICHK5` and `ICHK4` of what is no valid EAN-13, in a block with the PW unit (R90). -/
theorem ichkResults_of_error {cfg : Config} {o : Operands} {c : Cause} (hpw : cfg.pw ≠ none)
    (h : validatedEan13 cfg o = .error c) :
    ichk5Result cfg o = failed c ∧ ichk4Result cfg o = failed c := by
  obtain ⟨t, ht⟩ := Option.ne_none_iff_exists'.1 hpw
  simp [ichk5Result, ichk4Result, ht, h]

/-! ### Lengths that are not accepted (R57, R90, R105) -/

theorem len_mem_iff (o : Operands) : (operandString o).length ∈ [7, 8, 12, 13, 14, 16] ↔
    o.len ∈ [7, 8, 12, 13, 14, 16] := by
  simp [← BitVec.toNat_inj]

/-- Settles O24. -/
theorem unacceptedLengthsFail : Obligations.UnacceptedLengthsFail := by
  intro o s
  refine ⟨fun hlen => ?_, fun hlen => ?_, fun hlen => ?_⟩
  · have hclass := classifyString_eq_none config _ (mt (len_mem_iff o).1 hlen)
    exact ⟨complete_of_failed s (parseResult_of_error (parse_of_class_none _ _ hclass)),
      complete_of_failed s (chkdigResult_of_error (checkDigit_of_class_none _ _ hclass))⟩
  · exact complete_of_failed s (if_neg (by simpa using hlen))
  · have hvalidated : validatedEan13 config o = .error .length := if_neg (by simpa using hlen)
    obtain ⟨h5, h4⟩ := ichkResults_of_error (cfg := config) (by decide) hvalidated
    exact ⟨complete_of_failed s h5, complete_of_failed s h4⟩

/-! ### Characters that are no digits (R55, R59) -/

theorem classify_of_mem {n : Nat} (h : n ∈ [7, 8, 12, 13, 14, 16]) :
    ∃ k, classify n = some k := by
  simp only [List.mem_cons, List.not_mem_nil, or_false] at h
  obtain rfl | rfl | rfl | rfl | rfl | rfl := h <;> exact ⟨_, rfl⟩

/-- One character of the string that is no digit is enough. -/
theorem allDigits_eq_false_of_char {o : Operands} {i : Nat} (hi : i < 16)
    (hlen : i < o.len.toNat) (h : ¬(0x30 ≤ o.chars[i].toNat ∧ o.chars[i].toNat ≤ 0x39)) :
    allDigits (operandString o) = false := by
  obtain ⟨hl, hc⟩ := carries_operandString o
  rw [allDigits, List.all_eq_false]
  refine ⟨o.chars[i], ?_, mt (isDigit_iff _).1 h⟩
  rw [hc i hi (hl ▸ hlen)]
  exact List.getElem_mem _

theorem parse_and_checkDigit_of_nondigit {o : Operands}
    (hlen : o.len ∈ [7, 8, 12, 13, 14, 16]) (hd : allDigits (operandString o) = false) :
    parse config (operandString o) = .error .nonnumeric ∧
    checkDigit config (operandString o) = .error .nonnumeric := by
  obtain ⟨k, hk⟩ := classify_of_mem ((len_mem_iff o).2 hlen)
  rw [← classifyString_config] at hk
  exact ⟨parse_of_nondigit _ _ k hk hd, checkDigit_of_nondigit _ _ k hk hd⟩

/-- Settles O25: at an accepted length `parse` and `checkDigit` test the characters before they
compare a check digit. -/
theorem nonDigitCharactersFail : Obligations.NonDigitCharactersFail := by
  intro o s i hi hlen hchar
  have hd := allDigits_eq_false_of_char hi hlen hchar
  refine ⟨fun hmem => ?_, fun hmem => ?_, fun hmem => ?_⟩
  · obtain ⟨hparse, hcheck⟩ := parse_and_checkDigit_of_nondigit hmem hd
    exact ⟨complete_of_failed s (parseResult_of_error hparse),
      complete_of_failed s (chkdigResult_of_error hcheck)⟩
  · have hsub : ([8, 13] : List (BitVec 8)) ⊆ [7, 8, 12, 13, 14, 16] := by decide
    obtain ⟨hparse, -⟩ := parse_and_checkDigit_of_nondigit (hsub hmem) hd
    exact complete_of_failed s (encodeResult_of_error hmem hparse)
  · have hsub : ([12, 13] : List (BitVec 8)) ⊆ [7, 8, 12, 13, 14, 16] := by decide
    obtain ⟨hparse, -⟩ := parse_and_checkDigit_of_nondigit (hsub hmem) hd
    have hvalidated : validatedEan13 config o = .error .nonnumeric :=
      (if_pos (by simpa using hmem)).trans hparse
    obtain ⟨h5, h4⟩ := ichkResults_of_error (cfg := config) (by decide) hvalidated
    exact ⟨complete_of_failed s h5, complete_of_failed s h4⟩

/-! ### The pseudo-instruction SHIFTALL (R61) -/

/-- `SHIFT` repeated one time more than there are modules left delivers those modules. -/
theorem shiftUntilEnd_eq {n : Nat} (count : Nat) (rs : ResultState n)
    (hcount : rs.bitpos.toNat + count = rs.bitlen.toNat) (hn : rs.bitlen.toNat ≤ n) :
    shiftUntilEnd (count + 1) rs =
      ((rs.bits.toList.take rs.bitlen.toNat).drop rs.bitpos.toNat,
        { rs with bitpos := rs.bitlen, mod := false, modv := false }) := by
  induction count generalizing rs with
  | zero =>
    have hend : rs.bitpos = rs.bitlen := BitVec.eq_of_toNat_eq hcount
    rw [shiftUntilEnd, shiftOut_at_end rs (Nat.le_of_eq hcount.symm)]
    simp [hend]
  | succ count ih =>
    have hlt : rs.bitpos.toNat < rs.bitlen.toNat := by omega
    have hpos : (rs.bitpos + 1).toNat = rs.bitpos.toNat + 1 := by bv_omega
    have hin : rs.bitpos.toNat < (rs.bits.toList.take rs.bitlen.toNat).length := by
      simp
      omega
    have hcount' : (rs.bitpos + 1).toNat + count = rs.bitlen.toNat := by omega
    have hrest := ih { rs with mod := rs.bits[rs.bitpos.toNat], modv := true,
                               bitpos := rs.bitpos + 1 } hcount' hn
    rw [shiftUntilEnd, shiftOut_of_lt rs hlt (by omega), if_pos rfl, hrest,
      List.drop_eq_getElem_cons hin, ← hpos]
    simp

/-- Settles O38: I4 puts `BITPOS` at or before `BITLEN`, and I3 keeps `BITLEN` within `BITS`. -/
theorem shiftAllYieldsTheRest : Obligations.ShiftAllYieldsTheRest := by
  intro s hs
  obtain ⟨hle, -, -⟩ := hs.serializerInRange
  rw [shiftAll, shiftUntilEnd_eq _ s.rs (Nat.add_sub_cancel' hle) (bitlen_le_bitMax_of_resultInv hs)]
  exact ⟨rfl, rfl⟩

end Sys2Proof.Machine

/-! ## The CHK unit: the weighted sums, `PARSE` and `CHKDIG` (R70 to R80) -/

namespace Sys2Proof.Machine

/-! ### The formulas as written (R70 to R73) -/

@[simp] theorem complement10_val (m : Nat) : (complement10 m).val = (10 - m) % 10 := rfl

/-- Settles O21: each formula is the complement of its weighted sum. -/
theorem checkDigitFormulas : Obligations.CheckDigitFormulas := by
  intro p0 p1 p2 p3 p4 p5 p6 p7 p8 p9 p10 p11 p12
  exact ⟨complement10_val _, complement10_val _, complement10_val _, rfl, rfl, rfl⟩

/-! ### The number of digits of a code (R17) -/

theorem Encoding.size_pos (e : Encoding) : 0 < e.size := by cases e <;> decide

theorem Encoding.size_le (e : Encoding) : e.size ≤ 14 := by cases e <;> decide

theorem length_append_last {e : Encoding} {p : List Digit} (hp : p.length = e.size - 1)
    (last : Digit) : (p ++ [last]).length = e.size := by
  rw [List.length_append, hp, List.length_singleton, Nat.sub_add_cancel e.size_pos]

/-! ### One alternating weighting, seen from the right (R74) -/

/-- The weight of a digit of a code at a position counted from the right: the check digit is at
position 0 and the last digit of the payload at position 1 (R74). -/
def weightAt (position : Nat) : Nat := if position % 2 = 1 then 3 else 1

/-- The weighted sum of digits whose last one is at position `start` from the right: `start` is 0
for a complete code and 1 for a payload. -/
def weightedSum (start : Nat) : List Digit → Nat
  | [] => 0
  | d :: g => weightAt (start + g.length) * d.val + weightedSum start g

/-- The weighted sum as R74 writes it, index by index. -/
theorem weightedSum_eq_sum_range (start : Nat) (g : List Digit) :
    weightedSum start g = ((List.range g.length).map fun i =>
      weightAt (start + (g.length - 1 - i)) * (g.getD i 0).val).sum := by
  induction g with
  | nil => rfl
  | cons d g ih =>
    have hshift : ∀ i, g.length - (1 + i) = g.length - (i + 1) := fun i => by rw [Nat.add_comm]
    simp [weightedSum, ih, List.range_succ_eq_map, Function.comp_def, Nat.sub_sub, hshift]

/-- Beside its payload a complete code has its check digit, with weight 1. -/
theorem weightedSum_append_check (p : List Digit) (c : Digit) :
    weightedSum 0 (p ++ [c]) = weightedSum 1 p + c.val := by
  induction p with
  | nil => simp [weightedSum, weightAt]
  | cons d p ih =>
    simp only [List.cons_append, weightedSum, ih, List.length_append, List.length_singleton]
    rw [Nat.zero_add, Nat.add_comm p.length 1, Nat.add_assoc]

/-- The three formulas are the complement of one weighted sum. -/
theorem checkDigitOf_val {e : Encoding} {p : List Digit} (hp : p.length = e.size - 1) :
    (checkDigitOf e p).val = (10 - weightedSum 1 p % 10) % 10 := by
  rw [weightedSum_eq_sum_range, hp]
  cases e <;>
    simp [checkDigitOf, cd8, cd13, cd14, digitAt, Encoding.size, weightAt, List.range_succ] <;>
    omega

/-- A code ends in its check digit exactly when its weighted sum is a multiple of 10. -/
theorem eq_checkDigitOf_iff {e : Encoding} {p : List Digit} (hp : p.length = e.size - 1)
    (last : Digit) : last = checkDigitOf e p ↔ weightedSum 0 (p ++ [last]) % 10 = 0 := by
  rw [Fin.ext_iff, checkDigitOf_val hp, weightedSum_append_check]
  omega

/-- The weights 1 and 3 are units modulo 10, so a change of one digit changes the sum. -/
theorem weightedSum_set_ne (start : Nat) (g : List Digit) (j : Nat) (d : Digit)
    (hj : j < g.length) (hd : d ≠ g.getD j 0) :
    weightedSum start (g.set j d) % 10 ≠ weightedSum start g % 10 := by
  induction g generalizing j with
  | nil => simp at hj
  | cons x g ih =>
    cases j with
    | zero =>
      have hx : d.val ≠ x.val := Fin.val_ne_of_ne (by simpa using hd)
      simp only [List.set_cons_zero, weightedSum, weightAt]
      split <;> omega
    | succ j =>
      have hrest := ih j (by simpa using hj) (by simpa using hd)
      simp only [List.set_cons_succ, weightedSum, List.length_set]
      omega

/-- Settles O22: both weightings are `weightAt`, counted from position 1 and from position 0. -/
theorem weightsAlternateFromTheRight : Obligations.WeightsAlternateFromTheRight := by
  intro e p hp
  have hodd : ∀ k, weightAt (1 + k) = if k % 2 = 0 then 3 else 1 := fun k => by
    have hparity : (1 + k) % 2 = 1 ↔ k % 2 = 0 := by omega
    simp only [weightAt, hparity]
  have heven : ∀ k, weightAt (0 + k) = if k % 2 = 1 then 3 else 1 := fun k => by
    rw [Nat.zero_add, weightAt]
  have hsize := length_append_last hp (checkDigitOf e p)
  constructor
  · simpa only [weightedSum_eq_sum_range, hodd] using checkDigitOf_val hp
  · simpa only [weightedSum_eq_sum_range, heven, hsize] using (eq_checkDigitOf_iff hp _).1 rfl

/-! ### `parse` and `checkDigit` of a digit text -/

/-- The length dispatch of a payload, for the two encodings that have a payload form (R57). -/
theorem classify_payload {e : Encoding} (he : e ≠ .ean14) :
    classify (e.size - 1) = some ⟨e, .payload, 0⟩ := by
  revert he
  cases e <;> decide

/-- The length dispatch of a full code, with the two dropped digits of the wrapper form or
without (R57, R58). -/
theorem classify_full {e : Encoding} {dropped : List Digit}
    (h : dropped = [] ∨ e = .ean14 ∧ dropped.length = 2) :
    classify (dropped.length + e.size) = some ⟨e, .full, dropped.length⟩ := by
  obtain rfl | ⟨rfl, h⟩ := h
  · cases e <;> rfl
  · rw [h]
    rfl

theorem parse_asText_payload {e : Encoding} {p : List Digit} (he : e ≠ .ean14)
    (hp : p.length = e.size - 1) :
    parse config (asText p) = .ok ⟨e, p ++ [checkDigitOf e p]⟩ :=
  parse_payload config (asText p) ⟨e, .payload, 0⟩ p (by simp [hp, classify_payload he])
    (allDigits_asText p) rfl (digitsOf_asText _ p) hp

theorem classifyString_asText_full {e : Encoding} {dropped p : List Digit} (last : Digit)
    (h : dropped = [] ∨ e = .ean14 ∧ dropped.length = 2) (hp : p.length = e.size - 1) :
    classifyString config (asText (dropped ++ p ++ [last])) =
      some ⟨e, .full, dropped.length⟩ := by
  rw [classifyString_config, asText_length, List.append_assoc, List.length_append,
    length_append_last hp, classify_full h]

theorem digitsOf_asText_append (e : Encoding) (form : Form) (dropped g : List Digit) :
    digitsOf ⟨e, form, dropped.length⟩ (asText (dropped ++ g)) = g := by
  rw [digitsOf_asText, List.drop_left]

theorem parse_asText_full {e : Encoding} {dropped p : List Digit} (last : Digit)
    (h : dropped = [] ∨ e = .ean14 ∧ dropped.length = 2) (hp : p.length = e.size - 1) :
    parse config (asText (dropped ++ p ++ [last])) =
      if last = checkDigitOf e p then .ok ⟨e, p ++ [last]⟩ else .error .checksum :=
  parse_full config _ ⟨e, .full, dropped.length⟩ p last (classifyString_asText_full last h hp)
    (allDigits_asText _) rfl (by rw [List.append_assoc, digitsOf_asText_append]) hp

/-! ### `PARSE` and `CHKDIG` of a digit text (R77, R78) -/

/-- `PARSE` of a string that `parse` accepts shows the parsed value. -/
theorem parseResult_of_ok {cfg : Config} {o : Operands} {b : BarcodeValue}
    (h : parse cfg (operandString o) = .ok b) : parseResult cfg o = publishCode b b.lastDigit := by
  rw [parseResult, h]

theorem chkdigResult_of_ok {cfg : Config} {o : Operands} {e : Encoding} {c : Digit}
    (h : checkDigit cfg (operandString o) = .ok (e, c)) :
    chkdigResult cfg o = publishDigit e c := by
  rw [chkdigResult, h]

theorem publishCode_eq_shownCode (b : BarcodeValue) (check : Digit) :
    publishCode b check = shownCode b.enc b.digits check := rfl

theorem publishDigit_eq_shownDigit (e : Encoding) (check : Digit) :
    publishDigit e check = shownDigit e check := rfl

theorem lastDigit_append {e : Encoding} {p : List Digit} (hp : p.length = e.size - 1)
    (last : Digit) : BarcodeValue.lastDigit ⟨e, p ++ [last]⟩ = last := by
  simp [BarcodeValue.lastDigit, ← hp]

/-- `PARSE` of a string that `parse` reads as a payload and a last digit. -/
theorem execParse_of_ok {e : Encoding} {p : List Digit} {last : Digit} {o : Operands} (s : State)
    (hp : p.length = e.size - 1)
    (h : parse config (operandString o) = .ok ⟨e, p ++ [last]⟩) :
    execParse o s = .next ⟨shownCode e (p ++ [last]) last, s.edges⟩ := by
  rw [execParse, parseResult_of_ok h, lastDigit_append hp, publishCode_eq_shownCode,
    complete_eq_next]

theorem execParse_of_error {c : Cause} {o : Operands} (s : State)
    (h : parse config (operandString o) = .error c) :
    execParse o s = .next ⟨shownFailure c.code, s.edges⟩ :=
  complete_of_failed s (parseResult_of_error h)

/-- Every code text fits in the command word, the wrapper form's too. -/
theorem operandString_of_code {e : Encoding} {dropped p last : List Digit} {o : Operands}
    (h : dropped = [] ∨ e = .ean14 ∧ dropped.length = 2) (hp : p.length = e.size - 1)
    (hlast : last.length ≤ 1) (ho : Carries o (asText (dropped ++ p ++ last))) :
    operandString o = asText (dropped ++ p ++ last) := by
  refine operandString_eq o _ ho ?_
  have he := e.size_le
  have hdropped : dropped.length ≤ 2 := by
    obtain rfl | ⟨-, h⟩ := h
    · simp
    · exact Nat.le_of_eq h
  simp only [asText_length, List.length_append]
  omega

/-- Settles O26. -/
theorem parseCompletesAPayload : Obligations.ParseCompletesAPayload := by
  intro e p o s he hp ho
  have hs : operandString o = asText p := by
    simpa using operandString_of_code (dropped := []) (last := []) (.inl rfl) hp (by simp)
      (by simpa using ho)
  exact execParse_of_ok s hp (hs ▸ parse_asText_payload he hp)

/-- Settles O27. -/
theorem parseChecksAFullCode : Obligations.ParseChecksAFullCode := by
  intro e dropped p last o s hdropped hp ho
  have hparse := parse_asText_full last hdropped hp
  rw [← operandString_of_code hdropped hp (by simp) ho] at hparse
  by_cases hlast : last = checkDigitOf e p
  · rw [if_pos hlast] at hparse ⊢
    exact execParse_of_ok s hp hparse
  · rw [if_neg hlast] at hparse ⊢
    exact execParse_of_error s hparse

/-- Settles O28: each of the three forms puts the payload where `checkDigit` reads it. -/
theorem chkdigComputesTheCheckDigit : Obligations.ChkdigComputesTheCheckDigit := by
  intro e dropped p last o s hform hp ho
  obtain ⟨hdropped, hlast⟩ : (dropped = [] ∨ e = .ean14 ∧ dropped.length = 2) ∧
      (last = [] ∧ dropped = [] ∧ e ≠ .ean14 ∨ last.length = 1) := by tauto
  obtain ⟨form, hclass⟩ : ∃ form, classifyString config (asText (dropped ++ p ++ last)) =
      some ⟨e, form, dropped.length⟩ := by
    obtain ⟨rfl, rfl, he⟩ | hl := hlast
    · exact ⟨.payload, by simp [hp, classify_payload he]⟩
    · obtain ⟨l, rfl⟩ := List.length_eq_one_iff.1 hl
      exact ⟨.full, classifyString_asText_full l hdropped hp⟩
  have hfit : last.length ≤ 1 := by
    obtain ⟨rfl, -⟩ | hl := hlast
    · simp
    · exact Nat.le_of_eq hl
  have hcheck := checkDigit_eq config _ _ p last hclass (allDigits_asText _)
    (by rw [List.append_assoc, digitsOf_asText_append]) hp
  rw [← operandString_of_code hdropped hp hfit ho] at hcheck
  have hres := chkdigResult_of_ok hcheck
  rw [publishDigit_eq_shownDigit] at hres
  exact congrArg (complete · s) hres

/-! ### The properties of R80 -/

/-- Settles O29: the damaged code has another weighted sum modulo 10 than the valid one, so its
last digit is not the check digit of its payload. -/
theorem singleDigitErrorIsDetected : Obligations.SingleDigitErrorIsDetected := by
  intro e p j d o s hp hj hd ho
  have hlen := length_append_last hp (checkDigitOf e p)
  have hsum := weightedSum_set_ne 0 _ j d (hlen ▸ hj) hd
  rw [(eq_checkDigitOf_iff hp _).1 rfl] at hsum
  generalize hcode : (p ++ [checkDigitOf e p]).set j d = code at ho hsum
  have hcodeLen : code.length = e.size := by rw [← hcode, List.length_set, hlen]
  obtain ⟨p', last, rfl⟩ : ∃ p' last, code = p' ++ [last] := by
    have hne : code ≠ [] := List.ne_nil_of_length_pos (hcodeLen ▸ e.size_pos)
    exact ⟨_, _, (List.dropLast_append_getLast hne).symm⟩
  have hp' : p'.length = e.size - 1 := by simp [← hcodeLen]
  have hlast : last ≠ checkDigitOf e p' := mt (eq_checkDigitOf_iff hp' last).1 hsum
  rw [parseChecksAFullCode e [] p' last o s (.inl rfl) hp' ho, if_neg hlast]

/-- `parse` of the digits of a parsed value gives the value again. -/
theorem parse_asText_digits {cfg : Config} {s : List Byte} {b : BarcodeValue}
    (h : parse cfg s = .ok b) : parse config (asText b.digits) = .ok b := by
  obtain ⟨k, p, -, -, -, hp, hb, -⟩ := parse_ok cfg s b h
  have hparse := parse_asText_full (dropped := []) (checkDigitOf b.enc p) (.inl rfl) hp
  rwa [if_pos rfl, List.nil_append, ← hb] at hparse

/-- A successful `PARSE` shows a parsed value, which is read back whole. -/
theorem parseResult_of_valid {cfg : Config} {o : Operands}
    (h : (parseResult cfg o).valid = true) : ∃ b, parse cfg (operandString o) = .ok b ∧
      parseResult cfg o = publishCode b b.lastDigit ∧
      heldDigits (parseResult cfg o) b.enc = b.digits := by
  cases hparse : parse cfg (operandString o) with
  | error c => simp [parseResult_of_error hparse] at h
  | ok b =>
    refine ⟨b, rfl, parseResult_of_ok hparse, ?_⟩
    rw [parseResult_of_ok hparse]
    exact heldDigits_loadDigits _ _ _ rfl (parse_ok_length cfg _ b hparse)

/-- Settles O30. -/
theorem parseOfAParsedCodeIsTheSame : Obligations.ParseOfAParsedCodeIsTheSame := by
  intro o o' e s t hexec hvalid henc ho'
  have ht : t.rs = parseResult config o := complete_rs hexec
  obtain ⟨b, hparse, hres, hheld⟩ := parseResult_of_valid (ht ▸ hvalid)
  obtain rfl : b.enc = e := Encoding.code_injective (by rw [← henc, ht, hres, publishCode_enc])
  rw [ht, hheld] at ho'
  have hfit : b.digits.length ≤ 16 := by
    rw [parse_ok_length _ _ b hparse]
    exact Nat.le_trans b.enc.size_le (by decide)
  have hs := operandString_eq o' _ ho' (by simpa using hfit)
  have hres' : parseResult config o' = t.rs := by
    rw [parseResult_of_ok (hs ▸ parse_asText_digits hparse), ht, hres]
  exact congrArg (complete · t) hres'

/-- Two digit characters before 14 characters change neither function: the class drops them and
they are digits (R57, R58). -/
theorem parse_and_checkDigit_wrapper {a b : Byte} {c : List Byte} (hc : c.length = 14)
    (ha : isDigit a = true) (hb : isDigit b = true) :
    parse config (a :: b :: c) = parse config c ∧
    checkDigit config (a :: b :: c) = checkDigit config c := by
  have hlong : classifyString config (a :: b :: c) = some ⟨.ean14, .full, 2⟩ := by
    simp [hc, classify]
  have hshort : classifyString config c = some ⟨.ean14, .full, 0⟩ := by simp [hc, classify]
  have hdigits : allDigits (a :: b :: c) = allDigits c := by simp [allDigits, ha, hb]
  have hdrop : digitsOf ⟨.ean14, .full, 2⟩ (a :: b :: c) = digitsOf ⟨.ean14, .full, 0⟩ c := rfl
  simp only [parse, checkDigit, hlong, hshort, hdigits, hdrop, and_self]

/-- Settles O31. -/
theorem wrapperFormIsItsLastFourteen : Obligations.WrapperFormIsItsLastFourteen := by
  intro a b c o o' s hc ha hb ho ho'
  obtain ⟨hparse, hcheck⟩ := parse_and_checkDigit_wrapper hc ha hb
  have hs := operandString_eq o c ho (by omega)
  have hs' := operandString_eq o' _ ho' (by simp [hc])
  have hparseResult : parseResult config o' = parseResult config o := by
    rw [parseResult, parseResult, hs, hs', hparse]
  have hchkdigResult : chkdigResult config o' = chkdigResult config o := by
    rw [chkdigResult, chkdigResult, hs, hs', hcheck]
  exact ⟨congrArg (complete · s) hparseResult, congrArg (complete · s) hchkdigResult⟩

end Sys2Proof.Machine

/-! ## The PW unit: the internal checksums, `ICHK5`, `ICHK4` and `EMBED` (R90 to R97) -/

namespace Sys2Proof.Machine

/-! ### The internal checksums (R91, R92) -/

theorem ic5_congr (t : PwTables) {g g' : List Digit}
    (h : ∀ i : Nat, 7 ≤ i → i ≤ 11 → g.getD i 0 = g'.getD i 0) : ic5 t g = ic5 t g' := by
  simp (disch := omega) only [ic5, sum5, h]

theorem ic4_congr (t : PwTables) {g g' : List Digit}
    (h : ∀ i : Nat, 8 ≤ i → i ≤ 11 → g.getD i 0 = g'.getD i 0) : ic4 t g = ic4 t g' := by
  simp (disch := omega) only [ic4, sum4, h]

/-- Settles O50: both sums read the sequence at the indices of their slice alone. -/
theorem internalChecksumsReadOnlyTheirSlice : Obligations.InternalChecksumsReadOnlyTheirSlice :=
  fun t _ _ => ⟨ic5_congr t, ic4_congr t⟩

/-- The digits after the first twelve, the check digit among them, are not read. -/
theorem ic5_append (t : PwTables) {p : List Digit} (hp : 12 ≤ p.length) (last : List Digit) :
    ic5 t (p ++ last) = ic5 t p :=
  ic5_congr t fun _ _ _ => List.getD_append _ _ _ _ (by omega)

theorem ic4_append (t : PwTables) {p : List Digit} (hp : 12 ≤ p.length) (last : List Digit) :
    ic4 t (p ++ last) = ic4 t p :=
  ic4_congr t fun _ _ _ => List.getD_append _ _ _ _ (by omega)

/-- The first seven digits, the internal checksum at index 6 among them, are not read. -/
theorem ic5_append_right (t : PwTables) {h h' : List Digit} (hh : h.length = 7)
    (hh' : h'.length = 7) (g : List Digit) : ic5 t (h ++ g) = ic5 t (h' ++ g) :=
  ic5_congr t fun _ _ _ => by
    rw [List.getD_append_right _ _ _ _ (by omega), List.getD_append_right _ _ _ _ (by omega), hh,
      hh']

theorem ic5_eq_none_iff (t : PwTables) (g : List Digit) :
    ic5 t g = none ↔ ∀ k : Digit, t.w5m[k].val ≠ (10 - sum5 t g % 10) % 10 := by
  simp only [ic5, w5mInv_eq_none_iff, ne_eq, Fin.ext_iff, complement10_val]

/-- With this hardware's tables the inverse entry is the one that completes the sum. -/
theorem ic5_pwTables_eq_some_iff (g : List Digit) (k : Digit) :
    ic5 pwTables g = some k ↔ (sum5 pwTables g + lutW5m[k].val) % 10 = 0 := by
  rw [ic5, w5mInv_pwTables_eq_some_iff, Fin.ext_iff, complement10_val]
  omega

/-- Settles O44. -/
theorem internalChecksum5IsACongruence : Obligations.InternalChecksum5IsACongruence :=
  ic5_pwTables_eq_some_iff

/-- The permutation `W5M` has an inverse entry for every value. -/
theorem exists_ic5_pwTables (g : List Digit) : ∃ k, ic5 pwTables g = some k :=
  ⟨_, w5mInv_pwTables _⟩

/-! ### The EAN-13 that `ICHK5` and `ICHK4` work on (R90) -/

theorem validatedEan13_eq_parse (cfg : Config) {o : Operands}
    (h : o.len.toNat = 12 ∨ o.len.toNat = 13) :
    validatedEan13 cfg o = parse cfg (operandString o) :=
  if_pos (by simpa [← BitVec.toNat_inj] using h)

/-- Twelve digits and at most one more are parsed whole. -/
theorem validatedEan13_of_carries {p last : List Digit} {o : Operands} (hp : p.length = 12)
    (hlast : last.length ≤ 1) (ho : Carries o (asText (p ++ last))) :
    validatedEan13 config o = parse config (asText (p ++ last)) := by
  have hlen : o.len.toNat = p.length + last.length := by simpa using ho.1
  rw [validatedEan13_eq_parse config (by omega),
    operandString_eq o _ ho (by simp only [asText_length, List.length_append]; omega)]

theorem validatedEan13_accepts {p last : List Digit} {o : Operands} (hp : p.length = 12)
    (hlast : last = [] ∨ last = [cd13 p]) (ho : Carries o (asText (p ++ last))) :
    validatedEan13 config o = .ok ⟨.ean13, p ++ [cd13 p]⟩ := by
  obtain rfl | rfl := hlast
  · rw [validatedEan13_of_carries hp (by simp) ho, List.append_nil]
    exact parse_asText_payload (e := .ean13) (by decide) hp
  · rw [validatedEan13_of_carries hp (by simp) ho]
    exact (parse_asText_full (e := .ean13) (dropped := []) _ (.inl rfl) hp).trans (if_pos rfl)

theorem validatedEan13_rejects {p last : List Digit} {o : Operands} (hp : p.length = 12)
    (hlast : last.length ≤ 1) (hne : last ≠ []) (hcheck : last ≠ [cd13 p])
    (ho : Carries o (asText (p ++ last))) : validatedEan13 config o = .error .checksum := by
  rw [validatedEan13_of_carries hp hlast ho]
  obtain ⟨d, rfl⟩ : ∃ d, last = [d] :=
    List.length_eq_one_iff.1 (hlast.antisymm (List.length_pos_iff.2 hne))
  exact (parse_asText_full (e := .ean13) (dropped := []) d (.inl rfl) hp).trans
    (if_neg fun hd => hcheck (congrArg (fun c => [c]) hd))

/-! ### `ICHK5` and `ICHK4` (R94, R95) -/

theorem ichk5Result_of_ok {cfg : Config} {t : PwTables} {o : Operands} {b : BarcodeValue}
    {k : Digit} (hpw : cfg.pw = some t) (hb : validatedEan13 cfg o = .ok b)
    (hk : ic5 t b.digits = some k) : ichk5Result cfg o = publishCode b k := by
  simp only [ichk5Result, hpw, hb, hk]

theorem ichk5Result_of_invmiss {cfg : Config} {t : PwTables} {o : Operands} {b : BarcodeValue}
    (hpw : cfg.pw = some t) (hb : validatedEan13 cfg o = .ok b)
    (hk : ic5 t b.digits = none) : ichk5Result cfg o = failed .invmiss := by
  simp only [ichk5Result, hpw, hb, hk]

theorem ichk4Result_of_ok {cfg : Config} {t : PwTables} {o : Operands} {b : BarcodeValue}
    (hpw : cfg.pw = some t) (hb : validatedEan13 cfg o = .ok b) :
    ichk4Result cfg o = publishCode b (ic4 t b.digits) := by
  simp only [ichk4Result, hpw, hb]

/-- A command whose result is a published code. -/
theorem complete_of_publishCode {r : ResultState config.bitMax} {b : BarcodeValue} {d : Digit}
    (s : State) (h : r = publishCode b d) :
    complete r s = .next ⟨shownCode b.enc b.digits d, s.edges⟩ := by
  rw [h, publishCode_eq_shownCode, complete_eq_next]

/-- Settles O45: the digits after the payload do not change the internal checksum. -/
theorem ichk5ShowsTheInternalChecksum : Obligations.Ichk5ShowsTheInternalChecksum := by
  refine fun p last o s hp hlast ho => ⟨fun hvalid => ?_, fun hne hcheck => ?_⟩
  · obtain ⟨k, hk⟩ := exists_ic5_pwTables p
    have hk' : ic5 pwTables (p ++ [cd13 p]) = some k := by rw [ic5_append _ hp.ge, hk]
    exact ⟨k, (internalChecksum5IsACongruence p k).1 hk,
      complete_of_publishCode s (ichk5Result_of_ok rfl (validatedEan13_accepts hp hvalid ho) hk')⟩
  · exact complete_of_failed s (ichkResults_of_error (cfg := config) (by decide)
      (validatedEan13_rejects hp hlast hne hcheck ho)).1

/-- Settles O46. -/
theorem ichk4ShowsTheInternalChecksum : Obligations.Ichk4ShowsTheInternalChecksum := by
  refine fun p last o s hp hlast ho => ⟨fun hvalid => ?_, fun hne hcheck => ?_⟩
  · have hresult := ichk4Result_of_ok rfl (validatedEan13_accepts hp hvalid ho)
    rw [ic4_append _ hp.ge] at hresult
    exact complete_of_publishCode s hresult
  · exact complete_of_failed s (ichkResults_of_error (cfg := config) (by decide)
      (validatedEan13_rejects hp hlast hne hcheck ho)).2

/-! ### What `embedDataInEan` answers, test by test (R93) -/

section EmbedData

variable {cfg : Config} {pw : PwTables} {t : List Byte} {data : Nat}

theorem embedDataInEan_of_range (h : cfg.embedLimit ≤ data) :
    embedDataInEan cfg pw t data = .error .range := if_pos h

theorem embedDataInEan_of_short (hdata : data < cfg.embedLimit) (h : t.length < 6) :
    embedDataInEan cfg pw t data = .error .length :=
  (if_neg (Nat.not_le.2 hdata)).trans (if_pos h)

variable (hdata : data < cfg.embedLimit) (hlen : 6 ≤ t.length)
include hdata hlen

theorem embedDataInEan_of_error {c : Cause}
    (h : parse cfg (t.take 6 ++ [0x30] ++ pad5 data) = .error c) :
    embedDataInEan cfg pw t data = .error c := by
  rw [embedDataInEan, if_neg (Nat.not_le.2 hdata), if_neg (Nat.not_lt.2 hlen), h]

theorem embedDataInEan_of_invmiss {b : BarcodeValue}
    (h : parse cfg (t.take 6 ++ [0x30] ++ pad5 data) = .ok b) (hk : ic5 pw b.digits = none) :
    embedDataInEan cfg pw t data = .error .invmiss := by
  rw [embedDataInEan, if_neg (Nat.not_le.2 hdata), if_neg (Nat.not_lt.2 hlen), h]
  simp only [hk]

theorem embedDataInEan_of_some {b : BarcodeValue} {k : Digit}
    (h : parse cfg (t.take 6 ++ [0x30] ++ pad5 data) = .ok b) (hk : ic5 pw b.digits = some k) :
    embedDataInEan cfg pw t data = parse cfg (b.code.take 6 ++ [digitChar k] ++ pad5 data) := by
  rw [embedDataInEan, if_neg (Nat.not_le.2 hdata), if_neg (Nat.not_lt.2 hlen), h]
  simp only [hk]

end EmbedData

theorem embedResult_of_error {cfg : Config} {t : PwTables} {o : Operands} {c : Cause}
    (hpw : cfg.pw = some t)
    (h : embedDataInEan cfg t (operandString o) o.data.toNat = .error c) :
    embedResult cfg o = failed c := by
  simp only [embedResult, hpw, h]

theorem embedResult_of_ok {cfg : Config} {t : PwTables} {o : Operands} {b : BarcodeValue}
    (hpw : cfg.pw = some t) (h : embedDataInEan cfg t (operandString o) o.data.toNat = .ok b) :
    embedResult cfg o = publishCode b b.lastDigit := by
  simp only [embedResult, hpw, h]

/-- Settles O51: a missing inverse entry is `ic5` without a value. -/
theorem inverseMissFails : Obligations.InverseMissFails := by
  refine fun cfg t hpw => ⟨fun o b hb hmiss => ?_, fun o b hdata hlen hb hmiss => ?_⟩
  · exact ichk5Result_of_invmiss hpw hb ((ic5_eq_none_iff t _).2 hmiss)
  · exact embedResult_of_error hpw (embedDataInEan_of_invmiss hdata (by simpa using hlen) hb
      ((ic5_eq_none_iff t _).2 hmiss))

/-! ### The synthesised string as a text of digits -/

/-- Six digits, one digit and a padded number, as `embedDataInEan` puts them together. -/
theorem embedText_eq_asText (p five : List Digit) (k : Digit) :
    asText p ++ [digitChar k] ++ asText five = asText (p ++ [k] ++ five) := by
  rw [asText_append, asText_append]
  rfl

theorem embedPayload_length {p five : List Digit} (hp : p.length = 6) (hfive : five.length = 5)
    (k : Digit) : (p ++ [k] ++ five).length = Encoding.ean13.size - 1 := by
  simp [hp, hfive, Encoding.size]

/-- Both parses of `embedDataInEan` are of such a text, and it is an EAN-13 payload. -/
theorem parse_embedText {p five : List Digit} (hp : p.length = 6) (hfive : five.length = 5)
    (k : Digit) : parse config (asText p ++ [digitChar k] ++ asText five) =
      .ok ⟨.ean13, p ++ [k] ++ five ++ [cd13 (p ++ [k] ++ five)]⟩ := by
  rw [embedText_eq_asText]
  exact parse_asText_payload (by decide) (embedPayload_length hp hfive k)

/-- The internal checksum of a synthesised code is a function of the five digits of the number. -/
theorem ic5_embedded (pw : PwTables) {p five : List Digit} (hp : p.length = 6)
    (hfive : five.length = 5) (k k' : Digit) (last : List Digit) :
    ic5 pw (p ++ [k] ++ five ++ last) = ic5 pw (p ++ [k'] ++ five) := by
  rw [ic5_append pw (embedPayload_length hp hfive k).ge]
  exact ic5_append_right pw (by simp [hp]) (by simp [hp]) five

/-- `embedDataInEan` of a template that begins with six digits. -/
theorem embedDataInEan_of_digits {pw : PwTables} {t : List Byte} {data : Nat}
    {p five : List Digit} {k : Digit} (hdata : data < config.embedLimit) (hlen : 6 ≤ t.length)
    (ht : t.take 6 = asText p) (hp : p.length = 6) (hpad : pad5 data = asText five)
    (hfive : five.length = 5) (hk : ic5 pw (p ++ [k] ++ five) = some k) :
    embedDataInEan config pw t data =
      .ok ⟨.ean13, p ++ [k] ++ five ++ [cd13 (p ++ [k] ++ five)]⟩ := by
  have hfirst := parse_embedText hp hfive 0
  rw [← ht, ← hpad] at hfirst
  rw [embedDataInEan_of_some hdata hlen hfirst ((ic5_embedded pw hp hfive 0 k _).trans hk),
    hpad, ← parse_embedText hp hfive k]
  simp [BarcodeValue.code, ← hp, asText]

/-! ### `EMBED` (R96) -/

theorem take_six_of_chars {o : Operands} {p : List Digit} (hlen : 6 ≤ o.len.toNat)
    (hp : p.length = 6)
    (hchars : ∀ (i : Nat) (h : i < 6), o.chars[i] = digitChar (p.getD i 0)) :
    (operandString o).take 6 = asText p := by
  rw [operandString_take o 6 hlen (by decide)]
  refine List.ext_getElem (by simp [hp]) fun i h₁ h₂ => ?_
  have hi : i < p.length := by simpa using h₂
  simp [asText, hchars i (hp ▸ hi), hi]

/-- The five digits weigh the same in the synthesised payload as on their own. -/
theorem sum5_embedded (pw : PwTables) {p : List Digit} (hp : p.length = 6) (k : Digit)
    (five : List Digit) : sum5 pw (p ++ [k] ++ five) =
      pw.w5p[five.getD 0 0].val + pw.w2m[five.getD 1 0].val + pw.w5m[five.getD 2 0].val +
        pw.w5p[five.getD 3 0].val + pw.w2m[five.getD 4 0].val := by
  have hhead : (p ++ [k]).length = 7 := by simp [hp]
  have hget : ∀ i, (p ++ [k] ++ five).getD (7 + i) 0 = five.getD i 0 := fun i => by
    rw [List.getD_append_right _ _ _ _ (by omega), hhead, Nat.add_sub_cancel_left]
  simp only [sum5, hget]

/-- Settles O47: the digit that `ic5` finds for the template with 0 at index 6 is the one it finds
for the code with that digit in place. -/
theorem embedSynthesisesACode : Obligations.EmbedSynthesisesACode := by
  intro p o s hp hlen hchars hdata
  obtain ⟨five, hpad, hfive, hval⟩ := pad5_eq_asText o.data.toNat (by omega)
  obtain ⟨k, hk₀⟩ := exists_ic5_pwTables (p ++ [0] ++ five)
  have hk : ic5 pwTables (p ++ [k] ++ five) = some k :=
    (ic5_append_right pwTables (by simp [hp]) (by simp [hp]) five).trans hk₀
  refine ⟨k, five, hfive, hval, ?_, ?_⟩
  · have hsum := (ic5_pwTables_eq_some_iff _ k).1 hk
    rwa [sum5_embedded pwTables hp] at hsum
  · have hembed := embedDataInEan_of_digits hdata (by simpa using hlen)
      (take_six_of_chars hlen hp hchars) hp hpad hfive hk
    have hresult := embedResult_of_ok rfl hembed
    rw [lastDigit_append (embedPayload_length hp hfive k)] at hresult
    exact complete_of_publishCode s hresult

/-- A character that is no digit among the first six fails the first parse. -/
theorem parse_embedText_of_nondigit {t : List Byte} (data : Nat) (hlen : 6 ≤ t.length)
    (hd : allDigits (t.take 6) = false) :
    parse config (t.take 6 ++ [0x30] ++ pad5 data) = .error .nonnumeric := by
  have hpad : (pad5 data).length = 5 := rfl
  refine parse_of_nondigit config _ ⟨.ean13, .payload, 0⟩ ?_ ?_
  · simp [hpad, hlen, classify]
  · rw [allDigits] at hd
    simp only [allDigits, List.all_append, hd, Bool.false_and]

theorem allDigits_take_six_eq_false {o : Operands} (hlen : 6 ≤ o.len.toNat) {i : Nat} (hi : i < 6)
    (h : ¬(0x30 ≤ o.chars[i].toNat ∧ o.chars[i].toNat ≤ 0x39)) :
    allDigits ((operandString o).take 6) = false := by
  rw [operandString_take o 6 hlen (by decide), allDigits, List.all_eq_false]
  exact ⟨o.chars[i], List.mem_take_iff_getElem.2 ⟨i, by simp; omega, by simp⟩,
    mt (isDigit_iff _).1 h⟩

/-- Settles O48. -/
theorem embedFailsInOrder : Obligations.EmbedFailsInOrder := by
  refine fun o s => ⟨fun hdata => ?_, fun hdata hlen => ?_, fun hdata hlen ⟨i, hi, hchar⟩ => ?_⟩
  · exact complete_of_failed s (embedResult_of_error rfl (embedDataInEan_of_range hdata))
  · exact complete_of_failed s (embedResult_of_error rfl
      (embedDataInEan_of_short hdata (by simpa using hlen)))
  · have hlen' : 6 ≤ (operandString o).length := by simpa using hlen
    exact complete_of_failed s (embedResult_of_error rfl (embedDataInEan_of_error hdata hlen'
      (parse_embedText_of_nondigit _ hlen' (allDigits_take_six_eq_false hlen hi hchar))))

/-! ### A synthesised code carries its own internal checksum (R97) -/

/-- All that a success of `embedDataInEan` has passed. -/
theorem embedDataInEan_ok_tests {cfg : Config} {pw : PwTables} {t : List Byte} {data : Nat}
    {b : BarcodeValue} (h : embedDataInEan cfg pw t data = .ok b) :
    data < cfg.embedLimit ∧ 6 ≤ t.length ∧ ∃ b₁ k,
      parse cfg (t.take 6 ++ [0x30] ++ pad5 data) = .ok b₁ ∧ ic5 pw b₁.digits = some k := by
  obtain hdata | hdata := Nat.lt_or_ge data cfg.embedLimit
  case inr => simp [embedDataInEan_of_range hdata] at h
  obtain hlen | hlen := Nat.lt_or_ge t.length 6
  case inl => simp [embedDataInEan_of_short hdata hlen] at h
  refine ⟨hdata, hlen, ?_⟩
  cases hb₁ : parse cfg (t.take 6 ++ [0x30] ++ pad5 data) with
  | error c => simp [embedDataInEan_of_error hdata hlen hb₁] at h
  | ok b₁ =>
    cases hk : ic5 pw b₁.digits with
    | none => simp [embedDataInEan_of_invmiss hdata hlen hb₁ hk] at h
    | some k => exact ⟨b₁, k, rfl, hk⟩

/-- For any weighting tables: the digit at index 6 is the internal checksum of the code. -/
theorem embedDataInEan_ok_ic5 {pw : PwTables} {t : List Byte} {data : Nat} {b : BarcodeValue}
    (h : embedDataInEan config pw t data = .ok b) :
    ic5 pw b.digits = some (b.digits.getD 6 0) := by
  obtain ⟨hdata, hlen, b₁, k, hb₁, hk₁⟩ := embedDataInEan_ok_tests h
  obtain ⟨five, hpad, hfive, -⟩ :=
    pad5_eq_asText data (Nat.lt_of_lt_of_le hdata config.embedLimit_padded)
  obtain ⟨p, ht⟩ : ∃ p, t.take 6 = asText p := by
    cases hd : allDigits (t.take 6) with
    | false =>
      rw [parse_embedText_of_nondigit data hlen hd] at hb₁
      cases hb₁
    | true => exact ⟨_, (asText_digitValues _ hd).symm⟩
  have hp : p.length = 6 := by simpa [hlen] using (congrArg List.length ht).symm
  rw [ht, hpad] at hb₁
  cases (parse_embedText hp hfive 0).symm.trans hb₁
  have hk : ic5 pw (p ++ [k] ++ five) = some k :=
    (ic5_embedded pw hp hfive 0 k _).symm.trans hk₁
  rw [embedDataInEan_of_digits hdata hlen ht hp hpad hfive hk] at h
  cases h
  have hsix : (p ++ [k] ++ five ++ [cd13 (p ++ [k] ++ five)]).getD 6 0 = k := by simp [hp]
  rw [hsix]
  exact (ic5_embedded pw hp hfive k k _).trans hk

/-- Settles O49: the shown code is a parsed value, so its text is parsed to that value again, and
`ic5` of it is its digit at index 6. -/
theorem embeddedCodeIsConsistent : Obligations.EmbeddedCodeIsConsistent := by
  intro o o' s t hexec hvalid ho'
  have ht : t.rs = embedResult config o := complete_rs hexec
  cases hembed : embedDataInEan config pwTables (operandString o) o.data.toNat with
  | error c =>
    rw [ht, embedResult_of_error rfl hembed] at hvalid
    simp at hvalid
  | ok b =>
    rw [embedResult_of_ok rfl hembed] at ht
    obtain ⟨w, hw, hparse⟩ := embedDataInEan_ok hembed
    have henc : b.enc = .ean13 := parse_ok_enc_ean13 hparse (.inl hw)
    have hsize : b.digits.length = 13 := by rw [parse_ok_length _ _ b hparse, henc]; rfl
    rw [heldDigits_loadDigits t.rs .ean13 b.digits (by rw [ht, publishCode_digits]) hsize] at ho'
    have hparse' : parse config (operandString o') = .ok b := by
      rw [operandString_eq o' _ ho' (by simp [hsize])]
      exact parse_asText_digits hparse
    have hvalidated : validatedEan13 config o' = .ok b := by
      rw [validatedEan13_eq_parse config (.inr (by simpa [hsize] using ho'.1)), hparse']
    constructor
    · exact congrArg (complete · t) ((parseResult_of_ok hparse').trans ht.symm)
    · have hresult := ichk5Result_of_ok rfl hvalidated (embedDataInEan_ok_ic5 hembed)
      have hdigit : t.rs.digits[6] = nibble (b.digits.getD 6 0) := by
        rw [ht, publishCode_digits, loadDigits_getElem]
      rw [hdigit, ht]
      exact congrArg (complete · t) hresult

end Sys2Proof.Machine

/-! ## The ENC unit: the layouts, `ENCODE` and the serializer (R105 to R112) -/

namespace Sys2Proof.Machine

/-! ### Slices of a concatenation -/

/-- A slice that lies within one part of a concatenation. -/
theorem slice_of_eq_append {s a b c : BitSeq} {i j n : Nat} (hs : s = a ++ b ++ c)
    (hi : a.length + j = i) (hn : j + n ≤ b.length) : slice s i n = slice b j n := by
  rw [hs, slice, slice, ← hi, List.append_assoc, List.drop_length_add_append,
    List.drop_append_of_le_length (by omega),
    List.take_append_of_le_length (by rw [List.length_drop]; omega)]

/-- A slice that is one part of a concatenation. -/
theorem slice_eq_of_eq_append {s a b c : BitSeq} {i n : Nat} (hs : s = a ++ b ++ c)
    (hi : a.length = i) (hn : b.length = n) : slice s i n = b := by
  rw [slice_of_eq_append (j := 0) hs hi (by omega), slice, List.drop_zero, ← hn, List.take_length]

/-! ### One layout for both symbols (R106, R107) -/

/-- The patterns of the `k` digits of one half of a symbol. -/
def halfOf (k : Nat) (pattern : Nat → BitSeq) : BitSeq := (List.range k).flatMap pattern

/-- A symbol core with `k` digits in each half. -/
def coreOf (k : Nat) (left right : Nat → BitSeq) : BitSeq :=
  guardBits ++ halfOf k left ++ separatorBits ++ halfOf k right ++ guardBits

/-- A symbol core between two quiet zones. -/
def symbolOf (qz k : Nat) (left right : Nat → BitSeq) : BitSeq :=
  List.replicate qz false ++ coreOf k left right ++ List.replicate qz false

theorem core13_eq_coreOf (cfg : Config) (g : List Digit) :
    core13 cfg g = coreOf 6 (left13 cfg g) fun j => rightOf cfg g (7 + j) := by
  simp [core13, coreOf, halfOf, List.range_succ]

theorem core8_eq_coreOf (cfg : Config) (g : List Digit) :
    core8 cfg g = coreOf 4 (left8 cfg g) fun j => rightOf cfg g (4 + j) := by
  simp [core8, coreOf, halfOf, List.range_succ]

theorem bits13_eq_symbolOf (cfg : Config) (g : List Digit) :
    bits13 cfg g = symbolOf cfg.qz 6 (left13 cfg g) fun j => rightOf cfg g (7 + j) := by
  rw [bits13, core13_eq_coreOf, symbolOf, quietZone]

theorem bits8_eq_symbolOf (cfg : Config) (g : List Digit) :
    bits8 cfg g = symbolOf cfg.qz 4 (left8 cfg g) fun j => rightOf cfg g (4 + j) := by
  rw [bits8, core8_eq_coreOf, symbolOf, quietZone]

theorem halfOf_succ (k : Nat) (pattern : Nat → BitSeq) :
    halfOf (k + 1) pattern = halfOf k pattern ++ pattern k := by
  simp [halfOf, List.range_succ]

theorem halfOf_length {pattern : Nat → BitSeq} (h : ∀ j, (pattern j).length = 7) (k : Nat) :
    (halfOf k pattern).length = 7 * k := by
  induction k with
  | zero => rfl
  | succ k ih => rw [halfOf_succ, List.length_append, ih, h, Nat.mul_succ]

theorem slice_halfOf {pattern : Nat → BitSeq} (h : ∀ j, (pattern j).length = 7) {k j : Nat}
    (hj : j < k) : slice (halfOf k pattern) (7 * j) 7 = pattern j := by
  have hlen := halfOf_length h
  induction k with
  | zero => cases hj
  | succ k ih =>
    obtain hlt | rfl := Nat.lt_succ_iff_lt_or_eq.1 hj
    · rw [← ih hlt]
      exact slice_of_eq_append (a := []) (halfOf_succ k pattern) (Nat.zero_add _)
        (by rw [hlen]; omega)
    · exact slice_eq_of_eq_append (c := []) (by rw [halfOf_succ, List.append_nil]) (hlen j) (h j)

/-! ### The groups of a symbol (R108) -/

section Groups

variable {left right : Nat → BitSeq} (hleft : ∀ j, (left j).length = 7)
include hleft

theorem slice_coreOf_left {k j : Nat} (hj : j < k) :
    slice (coreOf k left right) (3 + 7 * j) 7 = left j := by
  rw [← slice_halfOf hleft hj]
  refine slice_of_eq_append (a := guardBits) (c := separatorBits ++ halfOf k right ++ guardBits)
    ?_ rfl (by rw [halfOf_length hleft]; omega)
  simp only [coreOf, List.append_assoc]

theorem slice_coreOf_separator (k : Nat) :
    slice (coreOf k left right) (3 + 7 * k) 5 = separatorBits := by
  refine slice_eq_of_eq_append (a := guardBits ++ halfOf k left) (c := halfOf k right ++ guardBits)
    ?_ ?_ rfl
  · simp only [coreOf, List.append_assoc]
  · rw [List.length_append, halfOf_length hleft]
    rfl

variable (hright : ∀ j, (right j).length = 7)
include hright

theorem coreOf_length (k : Nat) : (coreOf k left right).length = 11 + 14 * k := by
  simp [coreOf, halfOf_length hleft, halfOf_length hright, guardBits, separatorBits]
  omega

/-- Between its quiet zones a symbol is its core. -/
theorem slice_symbolOf {qz k i n : Nat} (h : i + n ≤ 11 + 14 * k) :
    slice (symbolOf qz k left right) (qz + i) n = slice (coreOf k left right) i n :=
  slice_of_eq_append rfl (by rw [List.length_replicate]) (by rwa [coreOf_length hleft hright])

theorem slice_coreOf_right {k j : Nat} (hj : j < k) :
    slice (coreOf k left right) (8 + 7 * k + 7 * j) 7 = right j := by
  rw [← slice_halfOf hright hj]
  refine slice_of_eq_append rfl ?_ (by rw [halfOf_length hright]; omega)
  simp [halfOf_length hleft, guardBits, separatorBits]
  omega

theorem slice_coreOf_rightGuard (k : Nat) :
    slice (coreOf k left right) (8 + 14 * k) 3 = guardBits := by
  refine slice_eq_of_eq_append (c := []) (List.append_nil _).symm ?_ rfl
  simp [halfOf_length hleft, halfOf_length hright, guardBits, separatorBits]
  omega

/-- The table of R108, for a symbol with `k` digits in each half. -/
theorem symbolOf_groups (qz k : Nat) :
    (symbolOf qz k left right).length = 11 + 14 * k + 2 * qz ∧
    slice (symbolOf qz k left right) 0 qz = List.replicate qz false ∧
    slice (symbolOf qz k left right) qz 3 = guardBits ∧
    (∀ j < k, slice (symbolOf qz k left right) (qz + 3 + 7 * j) 7 = left j) ∧
    slice (symbolOf qz k left right) (qz + (3 + 7 * k)) 5 = separatorBits ∧
    (∀ j < k, slice (symbolOf qz k left right) (qz + (8 + 7 * k) + 7 * j) 7 = right j) ∧
    slice (symbolOf qz k left right) (qz + (8 + 14 * k)) 3 = guardBits ∧
    slice (symbolOf qz k left right) (qz + (11 + 14 * k)) qz = List.replicate qz false ∧
    slice (symbolOf qz k left right) qz (11 + 14 * k) = coreOf k left right := by
  have hcore := coreOf_length hleft hright k
  have hquiet : (List.replicate qz false).length = qz := List.length_replicate
  refine ⟨?_, ?_, ?_, fun j hj => ?_, ?_, fun j hj => ?_, ?_, ?_, ?_⟩
  · rw [symbolOf, List.length_append, List.length_append, hcore, hquiet]
    omega
  · exact slice_eq_of_eq_append (a := []) (List.append_assoc _ _ _) rfl hquiet
  · exact (slice_symbolOf hleft hright (i := 0) (by omega)).trans rfl
  · rw [Nat.add_assoc, slice_symbolOf hleft hright (by omega), slice_coreOf_left hleft hj]
  · rw [slice_symbolOf hleft hright (by omega), slice_coreOf_separator hleft]
  · rw [Nat.add_assoc, slice_symbolOf hleft hright (by omega), slice_coreOf_right hleft hright hj]
  · rw [slice_symbolOf hleft hright (by omega), slice_coreOf_rightGuard hleft hright]
  · exact slice_eq_of_eq_append (c := []) (List.append_nil _).symm (by simp [hcore]) hquiet
  · exact slice_eq_of_eq_append rfl hquiet hcore

/-- A symbol determines its patterns. -/
theorem patterns_eq_of_symbolOf_eq {left' right' : Nat → BitSeq}
    (hleft' : ∀ j, (left' j).length = 7) (hright' : ∀ j, (right' j).length = 7) {qz k j : Nat}
    (h : symbolOf qz k left right = symbolOf qz k left' right') (hj : j < k) :
    left j = left' j ∧ right j = right' j := by
  obtain ⟨-, -, -, hl, -, hr, -⟩ := symbolOf_groups hleft hright qz k
  obtain ⟨-, -, -, hl', -, hr', -⟩ := symbolOf_groups hleft' hright' qz k
  rw [← hl j hj, ← hr j hj, h]
  exact ⟨hl' j hj, hr' j hj⟩

end Groups

/-! ### The two layouts -/

/-- `left(j)` shows the entry that the parity row selects. -/
theorem left13_eq_patternBits (cfg : Config) (g : List Digit) (j : Nat) : left13 cfg g j =
    patternBits (if cfg.parity[g.getD 0 0].getMsbD j then cfg.leven[g.getD (1 + j) 0]
      else cfg.lodd[g.getD (1 + j) 0]) := (apply_ite patternBits _ _ _).symm

theorem patternBits_length (p : BitVec 7) : (patternBits p).length = 7 := rfl

theorem left13_length (cfg : Config) (g : List Digit) (j : Nat) : (left13 cfg g j).length = 7 := by
  rw [left13_eq_patternBits, patternBits_length]

/-- Settles O32: both layouts are `symbolOf`, with six and with four digits in each half. -/
theorem symbolLayout : Obligations.SymbolLayout := by
  refine ⟨fun g => ⟨bits13_length config g, bits8_length config g⟩, fun cfg g => ⟨?_, ?_⟩⟩
  · have hleft : ∀ j, left13 cfg g j = if cfg.parity[g.getD 0 0].getMsbD j = false
        then patternBits cfg.lodd[g.getD (1 + j) 0]
        else patternBits cfg.leven[g.getD (1 + j) 0] := fun j => by
      rw [left13]
      cases cfg.parity[g.getD 0 0].getMsbD j <;> rfl
    simp only [← hleft]
    rw [bits13_eq_symbolOf, core13_eq_coreOf]
    exact symbolOf_groups (left13_length cfg g) (fun _ => patternBits_length _) cfg.qz 6
  · rw [bits8_eq_symbolOf, core8_eq_coreOf]
    exact symbolOf_groups (fun _ => patternBits_length _) (fun _ => patternBits_length _) cfg.qz 4

/-! ### A symbol determines its code (R111) -/

theorem patternBits_injective : Function.Injective patternBits := by
  intro p q h
  obtain ⟨h0, h1, h2, h3, h4, h5, h6⟩ : _ ∧ _ ∧ _ ∧ _ ∧ _ ∧ _ ∧ _ := by simpa [patternBits] using h
  refine BitVec.eq_of_getMsbD_eq fun i hi => ?_
  interval_cases i <;> assumption

/-- A table without a repeated entry determines its index. -/
theorem index_eq_of_nodup {w : Nat} {table : Vector (BitVec w) 10} (h : table.toList.Nodup)
    {d d' : Digit} (hd : table[d] = table[d']) : d = d' := by
  have hdlist : table.toList[d.val]'(by simp) = table.toList[d'.val]'(by simp) := by simpa using hd
  exact Fin.ext (h.getElem_inj_iff.1 hdlist)

theorem patternTables_nodup :
    lutLodd.toList.Nodup ∧ lutLeven.toList.Nodup ∧ lutRight.toList.Nodup := by
  obtain ⟨hleft, hright, -⟩ := List.nodup_append.1 patterns_nodup
  obtain ⟨hlodd, hleven, -⟩ := List.nodup_append.1 hleft
  exact ⟨hlodd, hleven, hright⟩

theorem lutLodd_ne_lutLeven (d d' : Digit) : lutLodd[d] ≠ lutLeven[d'] := by
  obtain ⟨hleft, -⟩ := List.nodup_append.1 patterns_nodup
  obtain ⟨-, -, hne⟩ := List.nodup_append.1 hleft
  exact hne _ (by simp) _ (by simp)

/-- A left-hand pattern shows its digit and the parity bit that selected its table. -/
theorem left_entry_injective {even even' : Bool} {d d' : Digit}
    (h : (if even then lutLeven[d] else lutLodd[d]) =
      if even' then lutLeven[d'] else lutLodd[d']) : even = even' ∧ d = d' := by
  obtain ⟨hlodd, hleven, -⟩ := patternTables_nodup
  cases even <;> cases even'
  · exact ⟨rfl, index_eq_of_nodup hlodd h⟩
  · exact absurd h (lutLodd_ne_lutLeven d d')
  · exact absurd h.symm (lutLodd_ne_lutLeven d' d)
  · exact ⟨rfl, index_eq_of_nodup hleven h⟩

theorem digit_eq_of_rightOf_eq {g g' : List Digit} {i : Nat}
    (h : rightOf config g i = rightOf config g' i) : g.getD i 0 = g'.getD i 0 :=
  index_eq_of_nodup patternTables_nodup.2.2 (patternBits_injective h)

theorem digit_eq_of_left8_eq {g g' : List Digit} {j : Nat}
    (h : left8 config g j = left8 config g' j) : g.getD j 0 = g'.getD j 0 :=
  index_eq_of_nodup patternTables_nodup.1 (patternBits_injective h)

theorem parity_and_digit_eq_of_left13_eq {g g' : List Digit} {j : Nat}
    (h : left13 config g j = left13 config g' j) :
    lutParity[g.getD 0 0].getMsbD j = lutParity[g'.getD 0 0].getMsbD j ∧
      g.getD (1 + j) 0 = g'.getD (1 + j) 0 := by
  rw [left13_eq_patternBits, left13_eq_patternBits] at h
  exact left_entry_injective (patternBits_injective h)

theorem eq_of_getD_eq {g g' : List Digit} (hlen : g.length = g'.length)
    (h : ∀ i < g.length, g.getD i 0 = g'.getD i 0) : g = g' := by
  refine List.ext_getElem hlen fun i hi hi' => ?_
  rw [← List.getD_eq_getElem g 0 hi, ← List.getD_eq_getElem g' 0 hi', h i hi]

/-- The twelve shown digits are read off their patterns, the first one off the six parity bits. -/
theorem bits13_config_injective {g g' : List Digit} (hg : g.length = 13) (hg' : g'.length = 13)
    (h : bits13 config g = bits13 config g') : g = g' := by
  rw [bits13_eq_symbolOf, bits13_eq_symbolOf] at h
  have hpatterns := fun j hj => patterns_eq_of_symbolOf_eq (j := j) (left13_length config g)
    (fun _ => patternBits_length _) (left13_length config g') (fun _ => patternBits_length _) h hj
  have hleft := fun j hj => parity_and_digit_eq_of_left13_eq (hpatterns j hj).1
  have hright := fun j hj => digit_eq_of_rightOf_eq (hpatterns j hj).2
  refine eq_of_getD_eq (hg.trans hg'.symm) fun i hi => ?_
  obtain rfl | ⟨j, hj, rfl⟩ | ⟨j, hj, rfl⟩ :
      i = 0 ∨ (∃ j < 6, i = 1 + j) ∨ ∃ j < 6, i = 7 + j := by
    obtain h0 | h6 | h12 : i = 0 ∨ 1 ≤ i ∧ i < 7 ∨ 7 ≤ i := by omega
    · exact .inl h0
    · exact .inr (.inl ⟨i - 1, by omega, by omega⟩)
    · exact .inr (.inr ⟨i - 7, by omega, by omega⟩)
  · exact index_eq_of_nodup lutParity_nodup
      (BitVec.eq_of_getMsbD_eq fun j hj => (hleft j hj).1)
  · exact (hleft j hj).2
  · exact hright j hj

theorem bits8_config_injective {g g' : List Digit} (hg : g.length = 8) (hg' : g'.length = 8)
    (h : bits8 config g = bits8 config g') : g = g' := by
  rw [bits8_eq_symbolOf, bits8_eq_symbolOf] at h
  have hpatterns := fun j hj => patterns_eq_of_symbolOf_eq (j := j) (fun _ => patternBits_length _)
    (fun _ => patternBits_length _) (fun _ => patternBits_length _) (fun _ => patternBits_length _)
    h hj
  refine eq_of_getD_eq (hg.trans hg'.symm) fun i hi => ?_
  obtain hlt | hge := Nat.lt_or_ge i 4
  · exact digit_eq_of_left8_eq (hpatterns i hlt).1
  · have hdigit := digit_eq_of_rightOf_eq (hpatterns (i - 4) (by omega)).2
    rwa [Nat.add_sub_cancel' hge] at hdigit

/-- Settles O39. -/
theorem differentCodesHaveDifferentSymbols : Obligations.DifferentCodesHaveDifferentSymbols :=
  ⟨fun _ _ => bits13_config_injective, fun _ _ => bits8_config_injective⟩

/-! ### Bars and spaces (R111) -/

theorem runsOf_append (v before : Bool) (a b : BitSeq) :
    runsOf v before (a ++ b) = runsOf v before a + runsOf v (a.getLastD before) b := by
  induction a generalizing before with
  | nil => simp [runsOf]
  | cons x a ih => rw [List.cons_append, runsOf, runsOf, ih, List.getLastD_cons, Nat.add_assoc]

theorem getLastD_append (before : Bool) (a b : BitSeq) :
    (a ++ b).getLastD before = b.getLastD (a.getLastD before) := by
  simp only [List.getLastD_eq_getLast?, List.getLast?_append, Option.getD_or]

/-- Modules drawn after a module `before` that end with `before` again, with `count` runs of bars
and `count` runs of spaces. -/
def RunsBackTo (before : Bool) (count : Nat) (b : BitSeq) : Prop :=
  b.getLastD before = before ∧ ∀ v, runsOf v before b = count

theorem RunsBackTo.append {before : Bool} {m n : Nat} {a b : BitSeq}
    (ha : RunsBackTo before m a) (hb : RunsBackTo before n b) :
    RunsBackTo before (m + n) (a ++ b) := by
  obtain ⟨halast, haruns⟩ := ha
  obtain ⟨hblast, hbruns⟩ := hb
  exact ⟨by rw [getLastD_append, halast, hblast],
    fun v => by rw [runsOf_append, haruns, halast, hbruns]⟩

theorem runsBackTo_halfOf {before : Bool} {pattern : Nat → BitSeq}
    (h : ∀ j, RunsBackTo before 2 (pattern j)) (k : Nat) :
    RunsBackTo before (2 * k) (halfOf k pattern) := by
  induction k with
  | zero => exact ⟨rfl, fun _ => rfl⟩
  | succ k ih =>
    rw [halfOf_succ]
    exact ih.append (h k)

/-- Where the first module differs from the one before it, every run is one of the modules' own. -/
theorem runsOf_cons_of_change {v before x : Bool} (b : BitSeq) (h : x = !before) :
    runsOf v before (x :: b) = runsOf v (!v) (x :: b) := by
  subst h
  cases v <;> cases before <;> simp [runsOf]

theorem runsBackTo_patternBits {before : Bool} {p : BitVec 7}
    (hends : p.getMsbD 0 = (!before) ∧ p.getMsbD 6 = before)
    (hruns : runsOf true false (patternBits p) = 2 ∧ runsOf false true (patternBits p) = 2) :
    RunsBackTo before 2 (patternBits p) := by
  obtain ⟨hfirst, hlast⟩ := hends
  obtain ⟨hbars, hspaces⟩ := hruns
  refine ⟨hlast, fun v => (runsOf_cons_of_change _ hfirst).trans ?_⟩
  cases v
  · exact hspaces
  · exact hbars

theorem runsBackTo_lutLodd (d : Digit) : RunsBackTo true 2 (patternBits lutLodd[d]) :=
  runsBackTo_patternBits (lutLodd_ends d) (pattern_runs d _ (by simp))

theorem runsBackTo_lutLeven (d : Digit) : RunsBackTo true 2 (patternBits lutLeven[d]) :=
  runsBackTo_patternBits (lutLeven_ends d) (pattern_runs d _ (by simp))

theorem runsBackTo_lutRight (d : Digit) : RunsBackTo false 2 (patternBits lutRight[d]) :=
  runsBackTo_patternBits (lutRight_ends d) (pattern_runs d _ (by simp))

theorem runsBackTo_left13 (g : List Digit) (j : Nat) :
    RunsBackTo true 2 (left13 config g j) := by
  rw [left13]
  split
  · exact runsBackTo_lutLeven _
  · exact runsBackTo_lutLodd _

/-- The runs of a core: the left half lies between bars and the right half between spaces. -/
theorem runsOf_coreOf {left right : Nat → BitSeq} (hleft : ∀ j, RunsBackTo true 2 (left j))
    (hright : ∀ j, RunsBackTo false 2 (right j)) (k : Nat) :
    runsOf true false (coreOf k left right) = 6 + 4 * k ∧
    runsOf false true (coreOf k left right) = 5 + 4 * k := by
  obtain ⟨hleftLast, hleftRuns⟩ := runsBackTo_halfOf hleft k
  obtain ⟨hrightLast, hrightRuns⟩ := runsBackTo_halfOf hright k
  have hguard : ∀ before, guardBits.getLastD before = true := fun _ => rfl
  have hseparator : ∀ before, separatorBits.getLastD before = false := fun _ => rfl
  have hguardRuns : runsOf true false guardBits = 2 ∧ runsOf false true guardBits = 1 ∧
      runsOf false false guardBits = 1 := by decide
  have hseparatorRuns : runsOf true true separatorBits = 2 ∧
      runsOf false true separatorBits = 3 := by decide
  simp only [coreOf, runsOf_append, getLastD_append, hguard, hseparator, hleftLast, hrightLast,
    hleftRuns, hrightRuns, hguardRuns, hseparatorRuns]
  omega

/-- Settles O40. -/
theorem ean13CoreHasThirtyBars : Obligations.Ean13CoreHasThirtyBars := by
  intro g
  obtain ⟨hbars, hspaces⟩ := runsOf_coreOf (runsBackTo_left13 g)
    (fun _ => runsBackTo_lutRight _) 6
  rw [core13_eq_coreOf]
  exact ⟨hbars, hspaces, rfl, by rw [coreOf, List.getLast?_append]; rfl⟩

/-! ### `ENCODE` (R109) -/

theorem encodeResult_of_length {cfg : Config} {o : Operands} (hlen : o.len ∉ [8, 13]) :
    encodeResult cfg o = failed .length := if_neg (by simpa using hlen)

/-- `ENCODE` of a string that `parse` accepts shows the parsed value and its layout. -/
theorem encodeResult_of_ok {cfg : Config} {o : Operands} {b : BarcodeValue}
    (hlen : o.len ∈ [8, 13]) (h : parse cfg (operandString o) = .ok b) :
    encodeResult cfg o = publishBits (publishCode b b.lastDigit)
      (if o.len = 13 then bits13 cfg b.digits else bits8 cfg b.digits) := by
  rw [encodeResult, if_pos (by simpa using hlen), h]

/-- A successful `ENCODE` shows a parsed value and a bit sequence. -/
theorem encodeResult_of_valid {cfg : Config} {o : Operands}
    (h : (encodeResult cfg o).valid = true) : ∃ b m, parse cfg (operandString o) = .ok b ∧
      encodeResult cfg o = publishBits (publishCode b b.lastDigit) m := by
  by_cases hlen : o.len ∈ [8, 13]
  case neg => simp [encodeResult_of_length hlen] at h
  cases hparse : parse cfg (operandString o) with
  | error c => simp [encodeResult_of_error hlen hparse] at h
  | ok b => exact ⟨b, _, rfl, encodeResult_of_ok hlen hparse⟩

/-- Settles O35: without its bit sequence the result of `ENCODE` is the result of `PARSE`. -/
theorem encodeShowsTheCodeOfParse : Obligations.EncodeShowsTheCodeOfParse := by
  intro o s t hexec hvalid
  obtain rfl := (complete_next_iff _ s t).1 hexec
  obtain ⟨b, m, hparse, hres⟩ := encodeResult_of_valid hvalid
  rw [hres]
  exact congrArg (complete · s) (parseResult_of_ok hparse)

theorem payload_length_not_mem {e : Encoding} (he : e ≠ .ean14) : e.size - 1 ∉ [8, 13] := by
  revert he
  cases e <;> decide

/-- Settles O34: no payload length is the length of a full code with a layout. -/
theorem encodeRefusesAPayload : Obligations.EncodeRefusesAPayload := by
  intro e p o s he hp ho
  refine ⟨(unacceptedLengthsFail o s).2.1 fun hmem => ?_, _,
    parseCompletesAPayload e p o s he hp ho, rfl⟩
  have hlen : o.len.toNat = e.size - 1 := by rw [ho.1, asText_length, hp]
  have hmem' : o.len.toNat ∈ [8, 13] := List.mem_map_of_mem (f := BitVec.toNat) hmem
  exact payload_length_not_mem he (hlen ▸ hmem')

/-- A shown symbol, with its known length written into `BITLEN`. -/
theorem publishBits_eq_shownSymbol {b : BarcodeValue} {check : Digit} {m : BitSeq} {len : Nat}
    (hm : m.length = len) : publishBits (publishCode b check) m =
      { shownSymbol b.enc b.digits check m with bitlen := BitVec.ofNat 8 len } := by
  subst hm
  rfl

/-- `ENCODE` of a full code of an encoding that has a layout. -/
theorem execEncode_of_full {e : Encoding} {p : List Digit} {last : Digit} {o : Operands} {len : Nat}
    {m : BitSeq} (s : State) (hp : p.length = e.size - 1) (hlen : o.len ∈ [8, 13])
    (ho : Carries o (asText (p ++ [last])))
    (hm : (if o.len = 13 then bits13 config (p ++ [last]) else bits8 config (p ++ [last])) = m)
    (hmlen : m.length = len) :
    execEncode o s = .next
      ⟨if last = checkDigitOf e p then
          { shownSymbol e (p ++ [last]) last m with bitlen := BitVec.ofNat 8 len }
        else shownFailure 3, s.edges⟩ := by
  have hs : operandString o = asText (p ++ [last]) :=
    operandString_of_code (dropped := []) (.inl rfl) hp (by simp) ho
  have hparse : parse config (operandString o) = _ :=
    hs ▸ parse_asText_full (dropped := []) last (.inl rfl) hp
  by_cases hlast : last = checkDigitOf e p
  · rw [if_pos hlast] at hparse ⊢
    rw [execEncode, encodeResult_of_ok hlen hparse, lastDigit_append hp, hm,
      publishBits_eq_shownSymbol hmlen, complete_eq_next]
  · rw [if_neg hlast] at hparse ⊢
    exact complete_of_failed s (encodeResult_of_error hlen hparse)

/-- Settles O33. -/
theorem encodeShowsTheSymbol : Obligations.EncodeShowsTheSymbol := by
  intro p last o s ho
  have hlen : o.len.toNat = p.length + 1 := by simpa using ho.1
  refine ⟨fun hp => ?_, fun hp => ?_⟩
  · have h13 : o.len = 13 := by rw [← BitVec.toNat_inj, hlen, hp]; rfl
    exact execEncode_of_full (e := .ean13) s hp (by simp [h13]) ho (if_pos h13)
      (bits13_length config _)
  · have h8 : o.len = 8 := by rw [← BitVec.toNat_inj, hlen, hp]; rfl
    exact execEncode_of_full (e := .ean8) s hp (by simp [h8]) ho (if_neg (by simp [h8]))
      (bits8_length config _)

/-! ### `SHIFT`, one module at a time (R110) -/

/-- Past the last element of `BITS` a module is delivered all the same (log entry 3). -/
theorem shiftOut_of_lt_bitlen {n : Nat} (rs : ResultState n)
    (h : rs.bitpos.toNat < rs.bitlen.toNat) : shiftOut rs =
    { rs with mod := readModule rs rs.bitpos.toNat, modv := true, bitpos := rs.bitpos + 1 } :=
  if_pos h

/-- Settles O36: `SHIFT` completes with what `shiftOut` gives. -/
theorem shiftDeliversTheNextModule : Obligations.ShiftDeliversTheNextModule := by
  refine fun o s => ⟨fun hmax hlt => ?_, fun _ hlt =>
    ⟨readModule s.rs s.rs.bitpos.toNat, ?_⟩, fun hend => ?_⟩
  · exact congrArg (complete · s) (shiftOut_of_lt s.rs hlt hmax)
  · exact congrArg (complete · s) (shiftOut_of_lt_bitlen s.rs hlt)
  · exact congrArg (complete · s) (shiftOut_at_end s.rs hend)

/-! ### A row of `SHIFT` commands (R111) -/

theorem step_shiftEdge {o : Operands} {s : State} {rest : List Edge}
    (h : s.edges = commandEdge (encodeWord (.shift o)) :: rest) :
    step s = .next ⟨shiftOut s.rs, rest⟩ := by
  obtain ⟨hnil, -⟩ | ⟨e, rest', hcons, hcase⟩ := step_cases s
  · simp [h] at hnil
  · obtain ⟨rfl, rfl⟩ := List.cons.inj (h.symm.trans hcons)
    obtain ⟨hrst, -⟩ | ⟨-, -, hstep⟩ | ⟨-, hvalid, -⟩ := hcase
    · cases hrst
    · rw [hstep, commandEdge, decodeWord_encodeWord _ rfl]
      rfl
    · cases hvalid

/-- A run over edges that each present `SHIFT` delivers one module after the other. -/
theorem run_shiftEdges (o : Operands) (k : Nat) (s : State) (rest : List Edge)
    (h : s.edges = List.replicate k (commandEdge (encodeWord (.shift o))) ++ rest) :
    core.run k s = .next ⟨shiftOut^[k] s.rs, rest⟩ := by
  induction k generalizing s with
  | zero =>
    subst h
    rfl
  | succ k ih =>
    rw [run_succ_of_next k s _ (step_shiftEdge h), ih _ rfl, Function.iterate_succ_apply]

/-- What `k` modules delivered from the start of a sequence have made of the result state `rs`
(R110, R111). -/
structure ShiftedBy {n : Nat} (rs : ResultState n) (k : Nat) (r : ResultState n) : Prop where
  frame : r = { rs with bitpos := r.bitpos, mod := r.mod, modv := r.modv }
  bitpos : r.bitpos.toNat = min k rs.bitlen.toNat
  delivered : 0 < k → k ≤ rs.bitlen.toNat → r.modv = true ∧ rs.bits[k - 1]? = some r.mod
  ended : rs.bitlen.toNat < k → r.modv = false ∧ r.mod = false

theorem ShiftedBy.zero {n : Nat} {rs : ResultState n} (h : rs.bitpos = 0) : ShiftedBy rs 0 rs where
  frame := rfl
  bitpos := by simp [h]
  delivered := fun hk => absurd hk (by decide)
  ended := fun hk => absurd hk (Nat.not_lt_zero _)

/-- One more `SHIFT`, of a sequence that fits the register `BITS`. -/
theorem ShiftedBy.shiftOut {n k : Nat} {rs r : ResultState n} (hn : rs.bitlen.toNat ≤ n)
    (h : ShiftedBy rs k r) : ShiftedBy rs (k + 1) (shiftOut r) := by
  obtain ⟨hframe, hpos, -, -⟩ := h
  generalize r.bitpos = pos, r.mod = mod, r.modv = modv at hframe hpos
  subst hframe
  obtain hlt | hend := Nat.lt_or_ge k rs.bitlen.toNat
  · have hk : pos.toNat = k := by omega
    have hin : pos.toNat < n := by omega
    rw [shiftOut_of_lt _ (hk.trans_lt hlt) hin]
    refine ⟨rfl, ?_, fun _ _ => ⟨rfl, ?_⟩, fun h => absurd h (by omega)⟩
    · show (pos + 1).toNat = _
      bv_omega
    · simp [← hk]
  · have hle : rs.bitlen.toNat ≤ pos.toNat := by omega
    rw [shiftOut_at_end _ hle]
    refine ⟨rfl, ?_, fun _ h => absurd h (by omega), fun _ => ⟨rfl, rfl⟩⟩
    show pos.toNat = _
    omega

theorem shiftedBy_iterate {n : Nat} {rs : ResultState n} (hstart : rs.bitpos = 0)
    (hn : rs.bitlen.toNat ≤ n) (k : Nat) : ShiftedBy rs k (shiftOut^[k] rs) := by
  induction k with
  | zero => exact .zero hstart
  | succ k ih =>
    rw [Function.iterate_succ_apply']
    exact ih.shiftOut hn

/-- Settles O37: I3 keeps the sequence within `BITS`, and each `SHIFT` takes `ShiftedBy` one module
further. -/
theorem serializerDeliversTheSequence : Obligations.SerializerDeliversTheSequence := by
  intro o s n rest hs hstart hedges k hk
  rw [← Nat.add_sub_cancel' hk, List.replicate_add, List.append_assoc] at hedges
  obtain ⟨hframe, hpos, hdelivered, hended⟩ :=
    shiftedBy_iterate hstart (bitlen_le_bitMax_of_resultInv hs) k
  exact ⟨_, run_shiftEdges o k s _ hedges, hframe, rfl, hpos, hdelivered, hended⟩

end Sys2Proof.Machine

/-! ## System commands and reserved opcodes (R120 to R122) -/

namespace Sys2Proof.Machine

/-! ### `NOP` and the idle edge (R120) -/

theorem exec_nop (o : Operands) (s : State) : exec (.nop o) s = .next s := rfl

theorem step_idleEdge {s : State} {w : CmdWord} {rest : List Edge}
    (h : s.edges = ⟨false, false, w⟩ :: rest) : step s = .next { s with edges := rest } := by
  rw [step, nextEdge, h]
  rfl

theorem decodeWord_zero : ∃ o : Operands, decodeWord 0 = .nop o := ⟨operandsField 0, rfl⟩

/-- Settles O52: an idle edge and a `NOP` both answer the state they were given. -/
theorem nopChangesNothing : Obligations.NopChangesNothing := by
  refine ⟨exec_nop, decodeWord_opcode 0, decodeWord_zero, fun o s w rest h => ?_⟩
  rw [exec_nop, step_idleEdge h]

/-! ### `CLEAR` (R121) -/

/-- An executing command is a `CLEAR`, or completes with a result that failed or is valid. -/
theorem exec_cases_of_executing {i : Instr} (hi : Executing i) (s : State) :
    (∃ o : Operands, i = .clear o) ∨ ∃ r, FailedOrValid r ∧ exec i s = complete r s := by
  cases i with
  | nop | shift => exact hi.elim
  | clear o => exact .inl ⟨o, rfl⟩
  | parse o => exact .inr ⟨_, (parseResult_cases config o).failedOrValid, rfl⟩
  | chkdig o => exact .inr ⟨_, failedOrValid_chkdigResult config o, rfl⟩
  | encode o => exact .inr ⟨_, failedOrValid_encodeResult config o, rfl⟩
  | ichk5 o => exact .inr ⟨_, (ichk5Result_cases config o).codeOrFailure.failedOrValid, rfl⟩
  | ichk4 o => exact .inr ⟨_, (ichk4Result_cases config o).codeOrFailure.failedOrValid, rfl⟩
  | embed o => exact .inr ⟨_, (embedResult_cases config o).codeOrFailure.failedOrValid, rfl⟩
  | reserved0909 | reserved0A0B | reserved0C0F | reserved101F | reserved203F | reserved407F
  | reserved80FF => exact .inr ⟨_, .inl ⟨.illegalOp, rfl⟩, rfl⟩

/-- Settles O53: `CLEAR` installs the reset registers, and any other executing command that ends
without a result has a cause. -/
theorem clearGivesTheResetRegisters : Obligations.ClearGivesTheResetRegisters := by
  refine ⟨fun _ _ => rfl, rfl, rfl, fun i s t hi h hvalid hcause => ?_⟩
  obtain hclear | ⟨r, hr, hexec⟩ := exec_cases_of_executing hi s
  · exact hclear
  · obtain ⟨hne, -⟩ := complete_failure_row hr t (hexec ▸ h) hvalid
    exact absurd hcause hne

/-! ### Reserved opcodes, and the opcodes of an absent PW unit (R122) -/

theorem illegalOpcode_eq_next (s : State) : illegalOpcode s = .next ⟨shownFailure 6, s.edges⟩ :=
  complete_of_failed s rfl

/-- Every command with an opcode above that of `CLEAR` is illegal. -/
theorem exec_of_nine_le_opcode {i : Instr} (h : 9 ≤ i.opcode.toNat) (s : State) :
    exec i s = .next ⟨shownFailure 6, s.edges⟩ := by
  cases i with
  | nop | parse | chkdig | encode | shift | ichk5 | ichk4 | embed | clear =>
    simp [Instr.opcode] at h
  | reserved0909 | reserved0A0B | reserved0C0F | reserved101F | reserved203F | reserved407F
  | reserved80FF => exact illegalOpcode_eq_next s

theorem hasPw_eq_false_iff (cfg : Config) : cfg.hasPw = false ↔ cfg.pw = none :=
  Option.isSome_eq_false_iff.trans Option.isNone_iff_eq_none

theorem pwResults_of_pw_none {cfg : Config} (o : Operands) (h : cfg.pw = none) :
    ichk5Result cfg o = failed .illegalOp ∧ ichk4Result cfg o = failed .illegalOp ∧
    embedResult cfg o = failed .illegalOp := by
  simp [ichk5Result, ichk4Result, embedResult, h]

/-- Settles O54: the reserved rows of the write table, the decoder keeping the opcode of the word,
and `HAS_PW = 0` as an absent record of tables. -/
theorem reservedOpcodesAreIllegal : Obligations.ReservedOpcodesAreIllegal := by
  refine ⟨fun o op s => ?_, rfl, fun w s hw => ?_, fun cfg o hpw => ?_⟩
  · obtain ⟨-, -, -, -, -, -, -, -, hreserved⟩ := registerWriteTable o op s
    exact hreserved
  · exact exec_of_nine_le_opcode ((decodeWord_opcode w).symm ▸ hw) s
  · exact pwResults_of_pw_none o ((hasPw_eq_false_iff cfg).1 hpw)

end Sys2Proof.Machine

/-! ## Exceptions: what a failure leaves, and who reports which cause (R127, R129) -/

namespace Sys2Proof.Machine

/-! ### What a failure leaves (R127) -/

theorem statusPort_shownFailure (code : BitVec 3) :
    (statusPort (shownFailure code)).toNat = 2 * code.toNat := by
  revert code
  decide

/-- An executing command that ends with `VALID = 0` is a `CLEAR` with no cause, or failed. -/
theorem exec_of_invalid {i : Instr} {s t : State} (hi : Executing i) (h : exec i s = .next t)
    (hvalid : t.rs.valid = false) :
    ((∃ o : Operands, i = .clear o) ∧ t = ⟨shownFailure 0, s.edges⟩) ∨
    ∃ c : Cause, t = ⟨shownFailure c.code, s.edges⟩ := by
  obtain ⟨o, rfl⟩ | ⟨r, ⟨c, hc⟩ | hr, hexec⟩ := exec_cases_of_executing hi s
  · exact .inl ⟨⟨o, rfl⟩, (complete_next_iff _ s t).1 h⟩
  · rw [hexec, complete_of_failed s hc] at h
    cases h
    exact .inr ⟨c, rfl⟩
  · rw [hexec] at h
    rw [complete_rs h, hr] at hvalid
    cases hvalid

/-- Settles O16. -/
theorem failureLeavesOnlyTheCause : Obligations.FailureLeavesOnlyTheCause := by
  intro i s t hi h hvalid
  obtain ⟨⟨o, hclear⟩, rfl⟩ | ⟨c, rfl⟩ := exec_of_invalid hi h hvalid
  · exact ⟨rfl, rfl, fun hne => absurd hclear (hne o), Nat.zero_le _, statusPort_shownFailure 0⟩
  · have hpos : 1 ≤ c.code.toNat :=
      Nat.pos_of_ne_zero fun h0 => c.code_ne_zero (BitVec.eq_of_toNat_eq h0)
    exact ⟨rfl, rfl, fun _ => hpos, c.code_le_six, statusPort_shownFailure c.code⟩

/-! ### A row of the table of R129 -/

theorem Cause.code_injective {c c' : Cause} (h : c.code = c'.code) : c = c' := by
  revert h
  cases c <;> cases c' <;> decide

theorem Cause.forall_iff {p : Cause → Prop} : (∀ c, p c) ↔ p .length ∧ p .nonnumeric ∧
    p .checksum ∧ p .invmiss ∧ p .range ∧ p .illegalOp :=
  ⟨fun h => ⟨h _, h _, h _, h _, h _, h _⟩, fun ⟨h₁, h₂, h₃, h₄, h₅, h₆⟩ c => by
    cases c <;> assumption⟩

/-- A row of R129 for one of the six commands: each of them can report `LENGTH` and `NONNUMERIC`,
and every other cause under the condition of its cell; a blank cell is `False`. -/
def reportRow (checksum invmiss range illegalOp : Prop) : Cause → Prop
  | .length => True
  | .nonnumeric => True
  | .checksum => checksum
  | .invmiss => invmiss
  | .range => range
  | .illegalOp => illegalOp

theorem reportRow_mono {p q r l p' q' r' l' : Prop} (hp : p → p') (hq : q → q') (hr : r → r')
    (hl : l → l') {c : Cause} (h : reportRow p q r l c) : reportRow p' q' r' l' c := by
  cases c with
  | length | nonnumeric => trivial
  | checksum => exact hp h
  | invmiss => exact hq h
  | range => exact hr h
  | illegalOp => exact hl h

/-- A result without a cause, or with one that the row admits. -/
def ReportsOnly {n : Nat} (r : ResultState n) (row : Cause → Prop) : Prop :=
  r.cause = 0 ∨ ∃ c, row c ∧ r.cause = c.code

section ReportsOnly

variable {n : Nat} {r : ResultState n} {row : Cause → Prop}

theorem reportsOnly_failed {c : Cause} (hr : r = failed c) (h : row c) : ReportsOnly r row :=
  .inr ⟨c, h, by rw [hr, failed_cause]⟩

theorem reportsOnly_publishCode {b : BarcodeValue} {d : Digit} (hr : r = publishCode b d) :
    ReportsOnly r row := .inl (by rw [hr, publishCode_cause])

theorem ReportsOnly.row_of_cause (h : ReportsOnly r row) (c : Cause) (hc : r.cause = c.code) :
    row c := by
  obtain h0 | ⟨c', hrow, hc'⟩ := h
  · exact absurd (hc.symm.trans h0) c.code_ne_zero
  · exact Cause.code_injective (hc'.symm.trans hc) ▸ hrow

theorem ReportsOnly.cause_mem (h : ReportsOnly r row) (cs : List Cause)
    (hcs : ∀ c, row c → c ∈ cs) : r.cause ∈ 0 :: cs.map Cause.code := by
  obtain h0 | ⟨c, hrow, hc⟩ := h
  · exact List.mem_cons.2 (.inl h0)
  · exact List.mem_cons_of_mem _ (hc ▸ List.mem_map_of_mem (hcs c hrow))

end ReportsOnly

/-! ### The causes of the functions (R57, R75, R76, R93) -/

theorem classify_full_mem {n : Nat} {k : StringClass} (h : classify n = some k)
    (hf : k.form = .full) : n ∈ [8, 13, 14, 16] := by
  unfold classify at h
  split at h <;> cases h <;> simp at hf ⊢

/-- A wrong check digit can stand in a full form only. -/
theorem parse_error_row {cfg : Config} {s : List Byte} {c : Cause} (h : parse cfg s = .error c) :
    reportRow (s.length ∈ [8, 13, 14, 16]) False False False c := by
  obtain ⟨-, he⟩ | ⟨k, hk, ⟨-, he⟩ | ⟨-, p, -, ⟨-, -, he⟩ | ⟨hf, l, -, ⟨-, he⟩ | ⟨-, he⟩⟩⟩⟩ :=
    parse_cases cfg s <;> cases he.symm.trans h
  · trivial
  · trivial
  · exact classify_full_mem (classifyString_mem cfg s k hk) hf

/-- Twelve characters are a payload form, so no check digit can be wrong. -/
theorem parse_error_row_of_length_twelve {cfg : Config} {s : List Byte} {c : Cause}
    {p q r l : Prop} (hs : s.length = 12) (h : parse cfg s = .error c) : reportRow p q r l c :=
  reportRow_mono (by simp [hs]) False.elim False.elim False.elim (parse_error_row h)

theorem checkDigit_error_row {cfg : Config} {s : List Byte} {c : Cause}
    (h : checkDigit cfg s = .error c) : reportRow False False False False c := by
  unfold checkDigit at h
  split at h
  · cases h
    trivial
  · split at h <;> cases h
    trivial

theorem operandString_length_mem_full_iff (o : Operands) :
    (operandString o).length ∈ [8, 13, 14, 16] ↔ o.len ∈ [8, 13, 14, 16] := by
  simp [← BitVec.toNat_inj]

theorem validatedEan13_error_row {cfg : Config} {o : Operands} {c : Cause}
    (h : validatedEan13 cfg o = .error c) : reportRow (o.len = 13) False False False c := by
  unfold validatedEan13 at h
  split at h
  case isFalse =>
    cases h
    trivial
  case isTrue hlen =>
    refine reportRow_mono (fun hfull => hlen.resolve_left fun h12 => ?_) id id id
      (parse_error_row h)
    simp [h12] at hfull

theorem embedText_length {t : List Byte} (h : 6 ≤ t.length) (c : Byte) (data : Nat) :
    (t.take 6 ++ [c] ++ pad5 data).length = 12 := by
  simp [pad5, h]

theorem six_le_code_length {cfg : Config} {s : List Byte} {b : BarcodeValue}
    (h : parse cfg s = .ok b) : 6 ≤ b.code.length := by
  rw [BarcodeValue.code, List.length_map, parse_ok_length cfg s b h]
  cases b.enc <;> decide

/-- Both parses of `embedDataInEan` are of 12 characters (R93). -/
theorem embedDataInEan_error_row {cfg : Config} {pw : PwTables} {t : List Byte} {data : Nat}
    {c : Cause} (h : embedDataInEan cfg pw t data = .error c) :
    reportRow False (∃ g, ic5 pw g = none) True False c := by
  obtain hdata | hdata := Nat.lt_or_ge data cfg.embedLimit
  case inr =>
    cases (embedDataInEan_of_range hdata).symm.trans h
    trivial
  obtain hlen | hlen := Nat.lt_or_ge t.length 6
  case inl =>
    cases (embedDataInEan_of_short hdata hlen).symm.trans h
    trivial
  cases hb : parse cfg (t.take 6 ++ [0x30] ++ pad5 data) with
  | error c' =>
    cases (embedDataInEan_of_error hdata hlen hb).symm.trans h
    exact parse_error_row_of_length_twelve (embedText_length hlen _ _) hb
  | ok b =>
    cases hk : ic5 pw b.digits with
    | none =>
      cases (embedDataInEan_of_invmiss hdata hlen hb hk).symm.trans h
      exact ⟨b.digits, hk⟩
    | some k =>
      rw [embedDataInEan_of_some hdata hlen hb hk] at h
      exact parse_error_row_of_length_twelve (embedText_length (six_le_code_length hb) _ _) h

/-! ### The rows of the six commands (R129) -/

theorem parseResult_row (cfg : Config) (o : Operands) :
    ReportsOnly (parseResult cfg o) (reportRow (o.len ∈ [8, 13, 14, 16]) False False False) := by
  cases h : parse cfg (operandString o) with
  | ok b => exact reportsOnly_publishCode (parseResult_of_ok h)
  | error c =>
    exact reportsOnly_failed (parseResult_of_error h)
      (reportRow_mono (operandString_length_mem_full_iff o).1 id id id (parse_error_row h))

theorem chkdigResult_row (cfg : Config) (o : Operands) :
    ReportsOnly (chkdigResult cfg o) (reportRow False False False False) := by
  cases h : checkDigit cfg (operandString o) with
  | ok r => exact .inl (by rw [chkdigResult_of_ok h, publishDigit_cause])
  | error c => exact reportsOnly_failed (chkdigResult_of_error h) (checkDigit_error_row h)

theorem encodeResult_row (cfg : Config) (o : Operands) :
    ReportsOnly (encodeResult cfg o) (reportRow (o.len ∈ [8, 13]) False False False) := by
  by_cases hlen : o.len ∈ [8, 13]
  case neg => exact reportsOnly_failed (c := .length) (if_neg (by simpa using hlen)) trivial
  cases h : parse cfg (operandString o) with
  | ok b => exact .inl (by rw [encodeResult, if_pos (by simpa using hlen), h]; rfl)
  | error c =>
    exact reportsOnly_failed (encodeResult_of_error hlen h)
      (reportRow_mono (fun _ => hlen) id id id (parse_error_row h))

/-- The inverse of this hardware's `W5M` has every entry (R42). -/
theorem ne_pwTables_of_ic5_eq_none {t : PwTables} {g : List Digit} (h : ic5 t g = none) :
    t ≠ pwTables := by
  rintro rfl
  obtain ⟨k, hk⟩ := exists_ic5_pwTables g
  rw [h] at hk
  cases hk

theorem ichk5Result_row (cfg : Config) (o : Operands) :
    ReportsOnly (ichk5Result cfg o)
      (reportRow (o.len = 13) (cfg.pw ≠ some pwTables) False (cfg.hasPw = false)) := by
  cases hpw : cfg.pw with
  | none => exact reportsOnly_failed (pwResults_of_pw_none o hpw).1 ((hasPw_eq_false_iff cfg).2 hpw)
  | some t =>
    cases hb : validatedEan13 cfg o with
    | error c =>
      exact reportsOnly_failed (ichkResults_of_error (by simp [hpw]) hb).1
        (reportRow_mono id False.elim id False.elim (validatedEan13_error_row hb))
    | ok b =>
      cases hk : ic5 t b.digits with
      | some k => exact reportsOnly_publishCode (ichk5Result_of_ok hpw hb hk)
      | none =>
        exact reportsOnly_failed (ichk5Result_of_invmiss hpw hb hk)
          fun heq => ne_pwTables_of_ic5_eq_none hk (Option.some.inj heq)

theorem ichk4Result_row (cfg : Config) (o : Operands) :
    ReportsOnly (ichk4Result cfg o) (reportRow (o.len = 13) False False (cfg.hasPw = false)) := by
  cases hpw : cfg.pw with
  | none =>
    exact reportsOnly_failed (pwResults_of_pw_none o hpw).2.1 ((hasPw_eq_false_iff cfg).2 hpw)
  | some t =>
    cases hb : validatedEan13 cfg o with
    | ok b => exact reportsOnly_publishCode (ichk4Result_of_ok hpw hb)
    | error c =>
      exact reportsOnly_failed (ichkResults_of_error (by simp [hpw]) hb).2
        (reportRow_mono id id id False.elim (validatedEan13_error_row hb))

theorem embedResult_row (cfg : Config) (o : Operands) :
    ReportsOnly (embedResult cfg o)
      (reportRow False (cfg.pw ≠ some pwTables) True (cfg.hasPw = false)) := by
  cases hpw : cfg.pw with
  | none =>
    exact reportsOnly_failed (pwResults_of_pw_none o hpw).2.2 ((hasPw_eq_false_iff cfg).2 hpw)
  | some t =>
    cases h : embedDataInEan cfg t (operandString o) o.data.toNat with
    | ok b => exact reportsOnly_publishCode (embedResult_of_ok hpw h)
    | error c =>
      have hmiss : (∃ g, ic5 t g = none) → some t ≠ some pwTables := fun ⟨g, hg⟩ heq =>
        ne_pwTables_of_ic5_eq_none hg (Option.some.inj heq)
      exact reportsOnly_failed (embedResult_of_error hpw h)
        (reportRow_mono id hmiss id False.elim (embedDataInEan_error_row h))

/-- The `ILLEGAL_OP` cell of the three commands of the PW unit: without the unit they report
nothing else (R122). -/
theorem pwResults_cause_of_no_pw {cfg : Config} (o : Operands) (h : cfg.hasPw = false) :
    (ichk5Result cfg o).cause = 6 ∧ (ichk4Result cfg o).cause = 6 ∧
    (embedResult cfg o).cause = 6 := by
  obtain ⟨h5, h4, he⟩ := pwResults_of_pw_none o ((hasPw_eq_false_iff cfg).1 h)
  exact ⟨congrArg _ h5, congrArg _ h4, congrArg _ he⟩

/-- Settles O18, row by row: the list of a row holds its cells that are not blank, and a cause that
is reported meets the condition of its cell. -/
theorem causesThatCannotOccur : Obligations.CausesThatCannotOccur := by
  intro cfg o
  have hparse := parseResult_row cfg o
  have hchkdig := chkdigResult_row cfg o
  have hencode := encodeResult_row cfg o
  have hichk5 := ichk5Result_row cfg o
  have hichk4 := ichk4Result_row cfg o
  have hembed := embedResult_row cfg o
  have hillegal := pwResults_cause_of_no_pw (cfg := cfg) o
  refine ⟨⟨hparse.cause_mem [.length, .nonnumeric, .checksum] ?_, hparse.row_of_cause .checksum⟩,
    hchkdig.cause_mem [.length, .nonnumeric] ?_,
    hencode.cause_mem [.length, .nonnumeric, .checksum] ?_,
    ⟨hichk5.cause_mem [.length, .nonnumeric, .checksum, .invmiss, .illegalOp] ?_,
      hichk5.row_of_cause .checksum, hichk5.row_of_cause .invmiss,
      hichk5.row_of_cause .illegalOp, fun h => (hillegal h).1⟩,
    ⟨hichk4.cause_mem [.length, .nonnumeric, .checksum, .illegalOp] ?_,
      hichk4.row_of_cause .checksum, hichk4.row_of_cause .illegalOp, fun h => (hillegal h).2.1⟩,
    hembed.cause_mem [.length, .nonnumeric, .invmiss, .range, .illegalOp] ?_,
    hembed.row_of_cause .invmiss, hembed.row_of_cause .illegalOp, fun h => (hillegal h).2.2⟩
  all_goals simp [Cause.forall_iff, reportRow]

end Sys2Proof.Machine

/-! ## Reset and hazards: one edge, a run of edges, and what a command reads (R140 to R150) -/

namespace Sys2Proof.Machine

/-! ### One edge (R140, R144) -/

theorem step_noEdge {s : State} (h : s.edges = []) : step s = .next s := by
  rw [step, nextEdge, h]

theorem step_resetEdge {s : State} {v : Bool} {w : CmdWord} {rest : List Edge}
    (h : s.edges = ⟨true, v, w⟩ :: rest) :
    step s = .next ⟨ResultState.cleared config.bitMax, rest⟩ := by
  rw [step, nextEdge, h]
  rfl

theorem step_commandEdge {s : State} {w : CmdWord} {rest : List Edge}
    (h : s.edges = ⟨false, true, w⟩ :: rest) :
    step s = exec (decodeWord w) { s with edges := rest } := by
  rw [step, nextEdge, h]
  rfl

/-- Settles O8: one lemma for each kind of edge, and one for an exhausted list. -/
theorem stepRunsTheDecodedCommand : Obligations.StepRunsTheDecodedCommand := by
  refine ⟨?edge, fun _ => step_noEdge⟩
  case edge =>
    rintro s ⟨rst, v, w⟩ rest h
    refine ⟨?reset, ?command, ?idle⟩
    case reset =>
      rintro rfl
      exact step_resetEdge h
    case command =>
      rintro rfl rfl
      exact step_commandEdge h
    case idle =>
      rintro rfl rfl
      exact step_idleEdge h

theorem statusPort_cleared (n : Nat) : statusPort (ResultState.cleared n) = 0 := by
  simp [statusPort]

/-- Settles O9: an edge with `rst = 1` installs the cleared registers. -/
theorem resetClearsEveryRegister : Obligations.ResetClearsEveryRegister := by
  intro s w v rest h
  have hdigits : ∀ (i : Nat) (hi : i < 14),
      (ResultState.cleared config.bitMax).digits[i] = 0 := by simp
  have hbits : ∀ (i : Nat) (hi : i < config.bitMax),
      (ResultState.cleared config.bitMax).bits[i] = false := by simp
  exact ⟨_, step_resetEdge h, rfl, rfl, rfl, rfl, rfl, rfl, hdigits, rfl, hbits,
    rfl, rfl, rfl, rfl, statusPort_cleared _⟩

/-! ### No run stops (R123, R132, R146, R150) -/

/-- Settles O13. -/
theorem everyCommandCompletes : Obligations.EveryCommandCompletes := exec_next

/-- Every edge has a next state: a command completes, and no other edge can stop. -/
theorem exists_step_next (s : State) : ∃ t, step s = .next t := by
  obtain ⟨-, hstep⟩ | ⟨e, rest, -, ⟨-, hstep⟩ | ⟨-, -, hstep⟩ | ⟨-, -, hstep⟩⟩ := step_cases s
  · exact ⟨_, hstep⟩
  · exact ⟨_, hstep⟩
  · obtain ⟨r, hexec⟩ := exec_next (decodeWord e.cmdWord) ⟨s.rs, rest⟩
    exact ⟨_, hstep.trans hexec⟩
  · exact ⟨_, hstep⟩

theorem safeRun_of_machineInv {s : State} (hs : MachineInv s) (k : Nat) : SafeRun s k := by
  induction k generalizing s with
  | zero => exact ⟨s, rfl, hs⟩
  | succ k ih =>
    obtain ⟨t, hstep⟩ := exists_step_next s
    obtain ⟨u, hrun, hu⟩ := ih (step_keeps_machineInv s t hs hstep)
    exact ⟨u, (run_succ_of_next k s t hstep).trans hrun, hu⟩

/-- The invariants do not speak of the edges still to come. -/
theorem machineInv_reset_withEdges (edges : List Edge) :
    MachineInv { State.reset with edges := edges } := resultInv_cleared config

/-- Settles O12: every step has a next state and keeps the invariants. -/
theorem noRunEverStops : Obligations.NoRunEverStops :=
  ⟨fun _ k hs => safeRun_of_machineInv hs k,
    fun edges k => safeRun_of_machineInv (machineInv_reset_withEdges edges) k⟩

/-! ### What the result of a command depends on (R146) -/

/-- An executing command completes with one result state, whatever state it starts from. -/
theorem exists_result_of_executing {i : Instr} (hi : Executing i) :
    ∃ r, ∀ s, exec i s = complete r s := by
  cases i with
  | nop | shift => exact hi.elim
  | parse | chkdig | encode | ichk5 | ichk4 | embed | clear | reserved0909 | reserved0A0B
  | reserved0C0F | reserved101F | reserved203F | reserved407F | reserved80FF =>
    exact ⟨_, fun _ => rfl⟩

/-- Settles O14. -/
theorem executingCommandsForgetHistory : Obligations.ExecutingCommandsForgetHistory := by
  intro i s₁ s₂ t₁ t₂ hi h₁ h₂
  obtain ⟨r, hr⟩ := exists_result_of_executing hi
  rw [hr] at h₁ h₂
  exact (complete_rs h₁).trans (complete_rs h₂).symm

/-- Delivering a module reads `BITS`, `BITLEN` and `BITPOS` alone (R110). -/
theorem shiftOut_congr {n : Nat} {rs rs' : ResultState n} (hbits : rs.bits = rs'.bits)
    (hlen : rs.bitlen = rs'.bitlen) (hpos : rs.bitpos = rs'.bitpos) :
    (shiftOut rs).mod = (shiftOut rs').mod ∧ (shiftOut rs).modv = (shiftOut rs').modv ∧
    (shiftOut rs).bitpos = (shiftOut rs').bitpos := by
  have hmodule : readModule rs rs.bitpos.toNat = readModule rs' rs'.bitpos.toNat := by
    rw [readModule, readModule, hbits, hpos]
  obtain hlt | hend := Nat.lt_or_ge rs.bitpos.toNat rs.bitlen.toNat
  · rw [shiftOut_of_lt_bitlen rs hlt, shiftOut_of_lt_bitlen rs' (hlen ▸ hpos ▸ hlt)]
    exact ⟨hmodule, rfl, congrArg (· + 1) hpos⟩
  · rw [shiftOut_at_end rs hend, shiftOut_at_end rs' (hlen ▸ hpos ▸ hend)]
    exact ⟨rfl, rfl, hpos⟩

/-- Settles O15: `SHIFT` completes with `shiftOut` of the registers, whatever its operands. -/
theorem shiftReadsOnlyTheSerializer : Obligations.ShiftReadsOnlyTheSerializer := by
  intro o₁ o₂ s₁ s₂ t₁ t₂ hbits hlen hpos h₁ h₂
  rw [complete_rs h₁, complete_rs h₂]
  exact shiftOut_congr hbits hlen hpos

end Sys2Proof.Machine
